-- ==== Sys2Proof/Word.lean ====
section
/-! DEFINITION. The bit-vector types of the ASC-418 model: what the manual treats as bits. -/

namespace Sys2Proof

/-- One byte of a record, of a bus transaction or of a data buffer. -/
abbrev Byte := BitVec 8

/-- A 16-bit field of a record: a tag, a generation, an identity code. -/
abbrev Half := BitVec 16

/-- A 32-bit register of the register window (R175). -/
abbrev Word := BitVec 32

/-- A host address: ring bases, data buffers, the start record. -/
abbrev HostAddr := BitVec 64

end Sys2Proof
end

