-- ==== Sys2Proof/Syntax.lean ====
section
/-! DEFINITION. The commands of the ASC-418: one constructor of `Instr` for each row of
spec/opcode_table.json, with the operands the event carries into the part. -/

namespace Sys2Proof

/-- A slot, 0 to 7. -/
abbrev SlotId := Fin 8

/-- A request ring, 0 to 7. Ring 0 is the control ring. -/
abbrev RingId := Fin 8

/-- A completion ring, 0 to 3. -/
abbrev CompRingId := Fin 4

/-- An interrupt vector, 0 to 4 (R171). -/
abbrev VectorId := Fin 5

/-- How a read transaction reached its STOP (R45, R47, R48). -/
inductive ReadOutcome where
  /-- The module acknowledged the access and sent these data bytes, first address first. -/
  | data (bytes : List Byte)
  /-- The address, offset or read address byte was refused with NACK. -/
  | unanswered
deriving DecidableEq, Repr

/-- How a read of the start record ended (R178). -/
structure StartReadOutcome where
  /-- The read is one that a function reset made moot (log entry 17). -/
  moot : Bool
  /-- Its 32 bytes, or none where the host link reports a failed read. -/
  record : Option (Vector Byte 32)
deriving DecidableEq, Repr

/-- How a piece's write transaction reached its STOP (R45, R50). -/
inductive WriteOutcome where
  /-- Every byte was acknowledged. -/
  | sent
  /-- The address or offset byte was refused with NACK. -/
  | unanswered
  /-- A data byte was refused after `acked` data bytes of the piece had been acknowledged. -/
  | dataRefused (acked : Nat)
deriving DecidableEq, Repr

/-- How the byte that the engine finishes under the abort mark was answered (R57). -/
inductive MarkClose where
  /-- The byte was acknowledged, or was a received one: the closing of the table of R57. In a read
  transaction these data bytes of it were received in all. -/
  | clean (received : List Byte)
  /-- An address or offset byte was refused: STOP, no further attempt. -/
  | addressRefused
  /-- A data byte of a piece was refused after `acked` data bytes had been acknowledged. -/
  | dataRefused (acked : Nat)
deriving DecidableEq, Repr

/-- The two conditions of a stuck episode (R53). -/
inductive StuckCause where
  | sclLow
  | sdaLow
deriving DecidableEq, Repr

/-- The commands: the operations and events of spec/opcode_table.json, in the table's order. -/
inductive Instr where
  /-- DET_ASSERTED (R18): DETn becomes asserted. -/
  | detAsserted (n : SlotId)
  /-- DET_EDGE (R19): an edge of DETn that leaves the line at `asserted`. -/
  | detEdge (n : SlotId) (asserted : Bool)
  /-- SETTLE_TIMER_EXPIRY (R19). -/
  | settleTimerExpiry (n : SlotId)
  /-- PROBE_TIMER_EXPIRY (R21): the end of a probe phase, with the levels of SENAn and SENBn sampled then. -/
  | probeTimerExpiry (n : SlotId) (senA senB : Bool)
  /-- PG_ASSERTED (R25). -/
  | pgAsserted (n : SlotId)
  /-- PG_TIMER_EXPIRY (R25). -/
  | pgTimerExpiry (n : SlotId)
  /-- WAKE_TIMER_EXPIRY (R25). -/
  | wakeTimerExpiry (n : SlotId)
  /-- PG_DEASSERTED (R31). -/
  | pgDeasserted (n : SlotId)
  /-- REMOVAL (R29): DETn deasserts. -/
  | removal (n : SlotId)
  /-- PROT_CHANGE (R9): PROTn changes to this level. -/
  | protChange (n : SlotId) (asserted : Bool)
  /-- READ_TRANSACTION (R47): a read transaction ends with its STOP. -/
  | readTransaction (n : SlotId) (o : ReadOutcome)
  /-- WRITE_TRANSACTION (R50): a piece's write transaction ends with its STOP. -/
  | writeTransaction (n : SlotId) (o : WriteOutcome)
  /-- POLL_WAIT_EXPIRY (R51). -/
  | pollWaitExpiry (n : SlotId)
  /-- POLL (R51): a poll transaction ends, acknowledged or refused. -/
  | poll (n : SlotId) (acked : Bool)
  /-- RETRY_WAIT_EXPIRY (R48). -/
  | retryWaitExpiry (n : SlotId)
  /-- STUCK_EPISODE (R53): met at the check before the START of a transaction (`atStart`) or inside it. -/
  | stuckEpisode (n : SlotId) (cause : StuckCause) (atStart : Bool)
  /-- RECOVERY_END (R55), with the lines as they then read: finished when neither is low. -/
  | recoveryEnd (n : SlotId) (sclLow sdaLow : Bool)
  /-- ABORT_MARK (R57): the engine acts on the abort mark. -/
  | abortMark (n : SlotId) (close : MarkClose)
  /-- POST (R83): a write of POST. -/
  | post (r : RingId) (tail : Half)
  /-- TAKEN (R84): a write of TAKEN, with its three-bit target field. -/
  | taken (target : Fin 8) (index : Half)
  /-- FETCH_START (R86). -/
  | fetchStart
  /-- RECORD_READ_DONE (R87): the record read ends with these 32 bytes, or failed. -/
  | recordReadDone (record : Option (Vector Byte 32))
  /-- COMPLETION_WRITE_DONE (R94). -/
  | completionWriteDone (c : CompRingId)
  /-- COMPLETION_WRITE_FAILED (R96). -/
  | completionWriteFailed (c : CompRingId)
  /-- NOTICE_WRITE_DONE (R167). -/
  | noticeWriteDone
  /-- NOTICE_WRITE_FAILED (R167). -/
  | noticeWriteFailed
  /-- CREATE_REQUEST_RING (R105): the control unit carries out the request in execution. -/
  | createRequestRing
  /-- DELETE_REQUEST_RING (R106). -/
  | deleteRequestRing
  /-- CREATE_COMPLETION_RING (R108). -/
  | createCompletionRing
  /-- DELETE_COMPLETION_RING (R109). -/
  | deleteCompletionRing
  /-- SET_NOTICE_RING (R110). -/
  | setNoticeRing
  /-- CONFIGURE_SLOT (R111). -/
  | configureSlot
  /-- SLOT_POWER_ON (R35). -/
  | slotPowerOn
  /-- SLOT_POWER_OFF (R36, R37). -/
  | slotPowerOff
  /-- READ_SLOT_RECORD (R113). -/
  | readSlotRecord
  /-- SNAPSHOT_WRITE_DONE (R113): the snapshot write ends, done or failed. -/
  | snapshotWriteDone (ok : Bool)
  /-- ABORT (R114). -/
  | abort
  /-- LANE_CONTROL_ENABLE (R119). -/
  | laneControlEnable
  /-- LANE_CONTROL_DISABLE (R164). -/
  | laneControlDisable
  /-- READ (R128): the engine starts the READ at the head of its pending list. -/
  | read (n : SlotId)
  /-- WRITE (R132). -/
  | write (n : SlotId)
  /-- COMPARE (R130). -/
  | compare (n : SlotId)
  /-- REFRESH (R135). -/
  | refresh (n : SlotId)
  /-- LOCK (R143). -/
  | lock (n : SlotId)
  /-- UNLOCK (R146). -/
  | unlock (n : SlotId)
  /-- HOST_READ_DONE (R127): a host read for a WRITE or COMPARE ends with its data, or failed. -/
  | hostReadDone (n : SlotId) (data : Option (List Byte))
  /-- HOST_WRITE_DONE (R128): a READ's host write ends, done or failed. -/
  | hostWriteDone (n : SlotId) (ok : Bool)
  /-- SETTLE_TIMER_EXPIRY_LANE (R159). -/
  | settleTimerExpiryLane
  /-- WAIT_TIMER_EXPIRY (R160): the wait timer of this slot's waiter. -/
  | waitTimerExpiry (n : SlotId)
  /-- LANE_STRAP_CHANGE (R154): the lane-fitted strap changes to this report. -/
  | laneStrapChange (fitted : Bool)
  /-- ENABLE (R176): a write of DEVCTL with RESET 0 and these ENABLE and INT_ENABLE bits. -/
  | enable (on intEnable : Bool)
  /-- RESET (R180): a write of DEVCTL with RESET 1 and these other bits. -/
  | reset (on intEnable : Bool)
  /-- INT_ENABLE (R172): a write of DEVCTL that leaves ENABLE as it stands and writes INT_ENABLE. -/
  | intEnable (on : Bool)
  /-- RESET_BUSY_CLEAR (R180). -/
  | resetBusyClear
  /-- FUNCTION_LEVEL_RESET (R180). -/
  | functionLevelReset
  /-- DEVSTAT_READ (R177). -/
  | devstatRead
  /-- REGISTER_WRITE (R175): a 32-bit write at a register offset. -/
  | registerWrite (offset : Nat) (value : Word)
  /-- START_RECORD_READ_DONE (R178): a start record read ends with these 32 bytes, or failed: the read of the
  present STARTING, or one that a function reset made moot. -/
  | startRecordReadDone (o : StartReadOutcome)
  /-- MASK_CHANGE (R172): the host sets or clears a vector's mask indication. -/
  | maskChange (v : VectorId) (masked : Bool)
  /-- LINK_RESET (R181). -/
  | linkReset
  /-- POWER_ON_RESET (R181). -/
  | powerOnReset
  /-- RESET_RELEASE (R14). -/
  | resetRelease
deriving DecidableEq, Repr

end Sys2Proof
end

