-- ==== Sys2Proof/Config.lean ====
section
/-! DEFINITION. What the manual fixes for every ASC-418, and the one free value of the model. -/

namespace Sys2Proof.Config

/-- Capacity of the raw geometry, and of the engine's data buffer, in bytes (R7, R40). -/
def rawCapacity : Nat := 2048

/-- Page size of the raw geometry (R7). -/
def rawPage : Nat := 8

/-- The descriptor span while the descriptor state is not VALID (R60). -/
def rawSpan : Nat := 256

/-- Places of one slot's pending list (R121). -/
def pendingPlaces : Nat := 4

/-- Places of the lock table (R142). -/
def lockPlaces : Nat := 16

/-- Attempts of one addressed access (R48). -/
def maxAttempts : Nat := 3

/-- Bytes of one block of descriptor memory (R44). -/
def blockBytes : Nat := 256

/-- Wake interval in ms (R17). -/
def wakeMs : Nat := 10

/-- How long SCLn may be held low before it is a stuck episode, in ms (R53). -/
def stuckMs : Nat := 25

/-- The settle interval of the lane after a reset, in ms (R153). -/
def laneSettleMs : Nat := 2

/-- FREE VALUE (log entry 7): which of several groups of results that the manual leaves unordered is
taken next (R106, R118, R162). The k-th choice of a run is `freeChoice k` modulo the number of groups.
It has no body a proof could see, so a claim holds whatever the order is. -/
opaque freeChoice : Nat → Nat

end Sys2Proof.Config
end

