-- ==== Sys2Proof/Machine/State.lean ====
section
/-! DEFINITION. The state of the ASC-418: every register, buffer, counter, mode and pin the manual gives,
as plain data, and its value right after reset (R14, R40, R80, R81, R121, R142, R153, R168, R175). -/

namespace Sys2Proof.Machine

/-! ### Stops -/

/-- Why the machine stops. -/
inductive Fault where
  /-- A host transfer or a bus read would place a byte at a position of the data buffer that does not
  exist, 2048 or above (R40). Raised by HOST_READ_DONE, READ_TRANSACTION and ABORT_MARK in states no run
  reaches (R88 bounds address + length by 2048). Safe: the machine stops (log entry 13). -/
  | dataBufferRange
deriving DecidableEq, Repr

/-- Why a command has no meaning. -/
inductive Refusal where
  /-- The command has no meaning yet. No arm of `exec` answers with it. Safe. -/
  | notModelled (mnemonic : String)
deriving DecidableEq, Repr

/-! ### The slot record (Chapter 1) and its sequencer (Chapter 2) -/

/-- The eight slot states (R1). -/
inductive SlotState where
  | empty | settling | probing | powering | reading | ready | held | fault
deriving DecidableEq, Repr

/-- Why a slot is in HELD or FAULT (R3). -/
inductive Reason where
  | none | noSense | badSense | classBlocked | manualOff | pgTimeout | powerLost | busStuck
deriving DecidableEq, Repr

/-- The reading of one sense line (R21). -/
inductive Reading where
  | open | ground | linked
deriving DecidableEq, Repr

/-- A sense code: SENA first, SENB second (R21). -/
structure SensePair where
  a : Reading
  b : Reading
deriving DecidableEq, Repr

/-- The supply a module asks for (R5). -/
inductive SupplyClass where
  | none | s33 | s50 | s120 | s33s120
deriving DecidableEq, Repr

/-- The INVALID reasons of a descriptor (R6). -/
inductive InvalidReason where
  | magic | version | headerCheck | geometry | extOverrun | extNoEnd | extCheck | duplicateEntry | entryLength
deriving DecidableEq, Repr

/-- The descriptor state (R6). -/
inductive DescState where
  | none | valid | invalid (why : InvalidReason) | absent
deriving DecidableEq, Repr

/-- The identity fields of a VALID descriptor (R8). -/
structure Identity where
  vendor : Half
  kind   : Half
  serial : Vector Byte 8
deriving DecidableEq, Repr

/-- The descriptor fields of the slot record (R6, R7, R8) with the descriptor span (R60). -/
structure Desc where
  state        : DescState
  capacity     : Nat
  pageSize     : Nat
  identity     : Option Identity
  protectEnd   : Option Nat
  closed       : Bool
  powerBudget  : Option Half
  laneWidth    : Option Nat
  label        : Option (List Byte)
  unknownCount : Option Nat
  span         : Nat
deriving DecidableEq, Repr

/-- The slot bus speed setting (R12). -/
inductive Speed where
  | khz100 | khz400
deriving DecidableEq, Repr

/-- The supply_allowed setting, one indication for each class (R12). -/
structure SupplySet where
  s33     : Bool
  s50     : Bool
  s120    : Bool
  s33s120 : Bool
deriving DecidableEq, Repr

/-- The seven settings of a slot (R12). `settleSteps` counts steps of 10 ms, `pgLimit` is in ms. -/
structure SlotConfig where
  autoPower   : Bool
  supply      : SupplySet
  speed       : Speed
  pollLimit   : Nat
  settleSteps : Nat
  pgLimit     : Nat
  retainPower : Bool
deriving DecidableEq, Repr

/-- The lane role of a slot (R11). -/
inductive LaneRole where
  | none | holder | waiter
deriving DecidableEq, Repr

/-- Who started the probe (R17). -/
inductive Origin where
  | auto | host
deriving DecidableEq, Repr

/-- A probe in progress: which attempt and pass (R22), which phase of the pass (R21), the two samples of
the low phase, and the result of the attempt's first pass (`none` when it yielded no pair). -/
structure Probe where
  repeatAttempt : Bool
  secondPass    : Bool
  highPhase     : Bool
  lowA          : Bool
  lowB          : Bool
  firstPair     : Option SensePair
deriving DecidableEq, Repr

/-- The slot record of one slot, its sequencer's timers and marks (R17), and the slot's lines but the bus.
Inputs DETn, PROTn and PGn are held as asserted or not; SENAn, SENBn and PRBn as high or not. A timer that
runs holds its length in ms; a probe in progress is the running probe timer. -/
structure Slot where
  state       : SlotState
  reason      : Reason
  generation  : Half
  sense       : Option SensePair
  supplyClass : SupplyClass
  desc        : Desc
  prot        : Bool
  config      : SlotConfig
  stuck       : Nat
  laneRole    : LaneRole
  settleTimer : Option Nat
  probe       : Option Probe
  pgTimer     : Option Nat
  wakeTimer   : Option Nat
  origin      : Origin
  pgSeen      : Bool
  det         : Bool
  pg          : Bool
  senA        : Bool
  senB        : Bool
  prb         : Bool
  pwren       : Bool
  pwrsel      : Fin 4
  /-- A function reset whose action on the slot (R15) awaits the engine's report (R58), with the
  retain_power value in force at the reset (R13). -/
  resetDue    : Option Bool
deriving DecidableEq, Repr

/-! ### Requests -/

/-- The kinds of request record (R191). -/
inductive Kind where
  | read | write | compare | refresh | lock | unlock | claimLane | releaseLane
  | createRequestRing | deleteRequestRing | createCompletionRing | deleteCompletionRing
  | setNoticeRing | configureSlot | slotPower | readSlotRecord | abort | laneControl
deriving DecidableEq, Repr

/-- A validated request record (R184). -/
structure Request where
  kind       : Kind
  tag        : Half
  slot       : SlotId
  generation : Half
  address    : Nat
  length     : Nat
  aux        : Word
  buffer     : HostAddr
deriving DecidableEq, Repr

/-- The status codes (R191). -/
inductive Status where
  | success | granted | mismatch | invalidKind | invalidField | outOfRange | duplicateTag | notReady
  | stale | protectedArea | locked | busStuck | conflict | overlap | tableFull | notHeld | alreadyHeld
  | duplicate | laneBusy | laneUnavailable | timeout | noResponse | writeTimeout | writeRefused
  | removed | powerFault | poweredOff | aborted | tooLate | ringDeleted | notFound | busy | inUse
  | hostReadError | hostWriteError
deriving DecidableEq, Repr

/-- A result handed to the completion poster (R93), but for PHASE, which the ring gives at the write.
`refused` marks a refusal at validation, whose record is taken at the write (R90). -/
structure Completion where
  ring           : RingId
  tag            : Half
  status         : Status
  slot           : Nat
  generation     : Half
  bytesDone      : Nat
  ringHead       : Nat
  detail         : Nat
  pageUncertain  : Bool
  reparseFailed  : Bool
  refused        : Bool
deriving DecidableEq, Repr

/-- An entry of a pending list or held-over list (R121). -/
structure Entry where
  kind       : Kind
  ring       : RingId
  tag        : Half
  generation : Half
  address    : Nat
  length     : Nat
  buffer     : HostAddr
  ringHead   : Nat
deriving DecidableEq, Repr

/-! ### The slot bus engine (Chapters 3 and 7) -/

/-- The bus phase (R40). -/
inductive BusPhase where
  | idle | addressing | sending | receiving | pollWait | polling | retryWait | recovery
deriving DecidableEq, Repr

/-- What the part does with SCLn or SDAn: released, or driven low and released bit by bit by an open
transaction or a recovery (R41). The single bits are not modelled (log entry 5). -/
inductive LineDrive where
  | released | clocked
deriving DecidableEq, Repr

/-- The part of a WRITE being sent or polled (R40). -/
structure Piece where
  start  : Nat
  length : Nat
deriving DecidableEq, Repr

/-- The data buffer: address and byte pairs, addresses rising, no entry of value 0. -/
abbrev Buffer := List Host.Cell

/-- The slot record values a request reads at its start (R124). -/
structure Seen where
  state      : SlotState
  generation : Half
  capacity   : Nat
  pageSize   : Nat
  descState  : DescState
  closed     : Bool
  protectEnd : Option Nat
  span       : Nat
  prot       : Bool
deriving DecidableEq, Repr

/-- Where a request in execution stands (R124). -/
inductive Stage where
  /-- The host read of a WRITE or COMPARE runs. -/
  | hostRead
  /-- The bus read of a READ or COMPARE runs. -/
  | busRead
  /-- The host write of a READ runs. -/
  | hostWrite
  /-- A WRITE sends and polls its pieces. -/
  | pieces
  /-- A WRITE's re-parse runs; the WRITE then completes with `final` (R75). -/
  | reparse (final : Status)
  /-- A REFRESH's descriptor read runs (R78). -/
  | refreshing
deriving DecidableEq, Repr

/-- The request in execution of one engine. `next` is the first descriptor address not yet read or not yet
confirmed. -/
structure Execution where
  entry     : Entry
  seen      : Seen
  stage     : Stage
  next      : Nat
  bytesDone : Nat
  abortMark : Bool
deriving DecidableEq, Repr

/-- The header of a descriptor being read, once its tests have passed: what the parse keeps (R64). -/
structure Header where
  capacity   : Nat
  pageSize   : Nat
  extLength  : Nat
  identity   : Identity
  protectEnd : Nat
  closed     : Bool
deriving DecidableEq, Repr

/-- A descriptor read (R56): its header read, or its extension read after a header that passed. -/
inductive DescRead where
  | header
  | extension (h : Header)
deriving DecidableEq, Repr

/-- A data-buffer transfer of the host link for one engine (R127). `data` is what a host write carries.
An abandoned transfer runs to its end, and its outcome is discarded (R138). -/
structure HostTransfer where
  toHost    : Bool
  address   : HostAddr
  length    : Nat
  data      : List Byte
  abandoned : Bool
deriving DecidableEq, Repr

/-- One slot bus engine. -/
structure Engine where
  phase        : BusPhase
  attempt      : Nat
  pollCounter  : Nat
  pollLimit    : Nat
  stuckCounter : Nat
  piece        : Option Piece
  block        : Nat
  speed        : Speed
  buffer       : Buffer
  /-- What the part sends in the open transaction: address, offset and data bytes (R44, R45). -/
  frame        : List Byte
  scl          : LineDrive
  sda          : LineDrive
  /-- SCLn and SDAn as last read: held low by the module. -/
  sclHeld      : Bool
  sdaHeld      : Bool
  pendingList  : List Entry
  heldOver     : List Entry
  exec         : Option Execution
  descRead     : Option DescRead
  hostTransfer : Option HostTransfer
  /-- The engine is ending the bus work of a request or read that a reset or halt ended (R58). -/
  closing      : Bool
  /-- The read that R58 closes fills the data buffer from this position, with this many bytes at most
  (R47); none when a write transaction, a COMPARE's read or nothing is being closed. -/
  closeFill    : Option (Nat × Nat)
deriving DecidableEq, Repr

/-! ### Rings (Chapter 5) -/

/-- The states of a request ring (R80). -/
inductive RingState where
  | absent | active | faulted | draining
deriving DecidableEq, Repr

/-- The staging place of a request ring (R80): empty, fetching, holding a valid record, or keeping a
refused record until its completion is written (R90). -/
inductive Staging where
  | empty
  | fetching
  | holding (q : Request)
  | refused
deriving DecidableEq, Repr

/-- A ring table entry (R80). -/
structure RequestRing where
  state   : RingState
  base    : HostAddr
  size    : Nat
  head    : Nat
  tail    : Nat
  bound   : Option CompRingId
  staging : Staging
  tags    : List Half
deriving DecidableEq, Repr

/-- A record write on the host link: its address and bytes. A moot write was issued before a reset or
before the notice ring was removed: its outcome is disregarded (R100, R170). -/
structure RecordWrite where
  address : HostAddr
  bytes   : List Byte
  moot    : Bool
deriving DecidableEq, Repr

/-- A completion ring entry of the poster (R81), with the results handed over and not yet issued, in the
order in which they reached the poster (R94), and the record whose write is in progress. -/
structure CompletionRing where
  active     : Bool
  base       : HostAddr
  size       : Nat
  produce    : Nat
  consumed   : Nat
  phase      : Bool
  unconsumed : Nat
  reserved   : Nat
  vector     : Option VectorId
  queue      : List Completion
  writing    : Option (Completion × RecordWrite)
deriving DecidableEq, Repr

/-- The cause of a RING_FAULT (R97). -/
inductive FaultCause where
  | badTail | readError
deriving DecidableEq, Repr

/-- What one notice reports (R166, R168): a slot with its kinds and change mask, or a ring with its fault. -/
inductive Report where
  | slot (n : SlotId) (stateKind changedKind : Bool) (mask : BitVec 7)
  | ring (r : RingId) (cause : FaultCause) (head : Nat)
deriving DecidableEq, Repr

/-- The notice ring entry of the poster (R81) and the notice record whose write is in progress. -/
structure NoticeRing where
  active     : Bool
  base       : HostAddr
  size       : Nat
  produce    : Nat
  consumed   : Nat
  phase      : Bool
  unconsumed : Nat
  writing    : Option (Report × RecordWrite)
deriving DecidableEq, Repr

/-- The dirty flag of a slot (R168). -/
structure SlotDirty where
  set         : Bool
  stateKind   : Bool
  changedKind : Bool
  mask        : BitVec 7
deriving DecidableEq, Repr

/-- The dirty flag of a request ring (R168): set exactly while it holds a fault, the cause and the head. -/
structure RingDirty where
  fault : Option (FaultCause × Nat)
deriving DecidableEq, Repr

/-- The record read on the read path (R86, R87). A moot read was in progress at a function reset. -/
structure RecordRead where
  ring    : RingId
  address : HostAddr
  moot    : Bool
deriving DecidableEq, Repr

/-! ### The control unit (Chapter 6) -/

/-- The control request in execution (R102). -/
structure ControlExec where
  req      : Request
  ringHead : Nat
deriving DecidableEq, Repr

/-- The snapshot write of a READ_SLOT_RECORD (R113), with the generation and slot state it shows. A moot
write was in flight at a function reset. -/
structure SnapshotWrite where
  address    : HostAddr
  bytes      : List Byte
  generation : Half
  slotState  : SlotState
  moot       : Bool
deriving DecidableEq, Repr

/-- The entries of the deferred-control list (R101). -/
inductive Deferred where
  | powerOff (slot : SlotId) (tag : Half) (ringHead : Nat)
  | deleteRing (ring : RingId) (tag : Half) (ringHead : Nat) (ended : Nat)
  | abort (ring : RingId) (target : Half) (tag : Half) (ringHead : Nat)
deriving DecidableEq, Repr

/-! ### Locks (Chapter 8) and the lane (Chapter 9) -/

/-- A lock entry (R142). -/
structure LockEntry where
  slot   : SlotId
  start  : Nat
  length : Nat
  owner  : RingId
deriving DecidableEq, Repr

/-- The lane states (R153). -/
inductive LaneState where
  | disabled | free | held | settling
deriving DecidableEq, Repr

/-- A waiter of the lane (R155). `timer` holds the running wait timer's length, absent for 65535. -/
structure Waiter where
  slot       : SlotId
  ring       : RingId
  tag        : Half
  generation : Half
  ringHead   : Nat
  limit      : Nat
  timer      : Option Nat
deriving DecidableEq, Repr

/-- The lane arbiter and its outputs LSEL and LEN (R153, R154). -/
structure Lane where
  state          : LaneState
  holder         : Option SlotId
  holderRing     : Option RingId
  waiters        : List Waiter
  settleTimer    : Option Nat
  settleInterval : Nat
  lsel           : SlotId
  len            : Bool
deriving DecidableEq, Repr

/-! ### The device (Chapter 11) -/

/-- The five conditions of the device (R174). -/
inductive Condition where
  | off | starting | running | halted | resetting
deriving DecidableEq, Repr

/-- The halt cause (R177). -/
inductive HaltCause where
  | none | startRecord | controlFetch | postWrite
deriving DecidableEq, Repr

/-- The start record copy (R178). -/
structure StartRecord where
  ringBase : HostAddr
  ringSize : Nat
  compBase : HostAddr
  compSize : Nat
deriving DecidableEq, Repr

/-- The state of the ASC-418 and the queue of the commands that wait. -/
@[ext]
structure State where
  /-- The commands that wait, first in, first out (the model's queue). -/
  pending       : List Instr
  -- registers and device
  condition     : Condition
  intEnable     : Bool
  haltCause     : HaltCause
  postError     : Bool
  startLo       : Word
  startHi       : Word
  startCopy     : Option StartRecord
  /-- The address of the start record read in flight (R178). -/
  startRead     : Option HostAddr
  /-- How many start record reads that a function reset made moot are still in flight (R178, log entry 17). -/
  startMoot     : Nat
  /-- The lane-fitted strap: true when it reports a switch. -/
  laneFitted    : Bool
  /-- A power-on or link reset holds the part (R181): PERST asserted, power coming up, or link down. -/
  inReset       : Bool
  /-- The answer to the last register read (the model's field, log entry 12). -/
  readData      : Word
  -- slots and engines
  slots         : Vector Slot 8
  engines       : Vector Engine 8
  -- fetch arbiter
  rings         : Vector RequestRing 8
  roundRobin    : RingId
  recordRead    : Option RecordRead
  /-- For each slot, the rings whose staged records wait for its pending list (R92). -/
  waitOrders    : Vector (List RingId) 8
  -- control unit
  control       : Option ControlExec
  snapshotWrite : Option SnapshotWrite
  deferred      : List Deferred
  -- lock table and lane
  locks         : List LockEntry
  lane          : Lane
  -- completion poster
  compRings     : Vector CompletionRing 4
  notices       : NoticeRing
  slotDirty     : Vector SlotDirty 8
  ringDirty     : Vector RingDirty 8
  -- interrupt vectors
  vectorPending : Vector Bool 5
  vectorMasked  : Vector Bool 5
  /-- How many messages each vector has sent (the model's field, log entry 12). -/
  messagesSent  : Vector Nat 5
  /-- How many free choices of an open order have been made (the model's field, log entry 7). -/
  freeCount     : Nat
deriving DecidableEq, Repr

/-! ### Reset values -/

/-- The descriptor fields under a verdict other than VALID: raw geometry, every other field absent, span
256 (R7, R8, R60). -/
def Desc.raw (st : DescState) : Desc :=
  { state := st, capacity := Config.rawCapacity, pageSize := Config.rawPage, identity := none
    protectEnd := none, closed := false, powerBudget := none, laneWidth := none, label := none
    unknownCount := none, span := Config.rawSpan }

/-- The default configuration (R12). -/
def SlotConfig.default : SlotConfig :=
  { autoPower := true, supply := ⟨true, true, true, true⟩, speed := .khz100, pollLimit := 40
    settleSteps := 5, pgLimit := 100, retainPower := false }

/-- A slot after power-on or link reset (R14, R17), its input lines at the levels given. -/
def Slot.initial (prot det pg senA senB : Bool) : Slot :=
  { state := .empty, reason := .none, generation := 0, sense := none, supplyClass := .none
    desc := Desc.raw .none, prot := prot, config := SlotConfig.default, stuck := 0, laneRole := .none
    settleTimer := none, probe := none, pgTimer := none, wakeTimer := none, origin := .auto
    pgSeen := false, det := det, pg := pg, senA := senA, senB := senB, prb := true, pwren := false
    pwrsel := 0, resetDue := none }

/-- An engine after power-on or link reset (R40, R121). The poll limit in use holds the default setting
(log entry 25: the manual gives it no value before the first polling). -/
def Engine.initial : Engine :=
  { phase := .idle, attempt := 1, pollCounter := 0, pollLimit := 40, stuckCounter := 0, piece := none
    block := 0, speed := .khz100, buffer := [], frame := [], scl := .released, sda := .released
    sclHeld := false, sdaHeld := false, pendingList := [], heldOver := [], exec := none
    descRead := none, hostTransfer := none, closing := false, closeFill := none }

/-- A ring table entry in ABSENT (R80). -/
def RequestRing.absent : RequestRing :=
  { state := .absent, base := 0, size := 0, head := 0, tail := 0, bound := none, staging := .empty
    tags := [] }

/-- A completion ring in ABSENT (R81). R81 gives no vector, base or size for it: the vector is none, base and size
are 0 (DESIGN CHOICE, log entry 36). -/
def CompletionRing.absent : CompletionRing :=
  { active := false, base := 0, size := 0, produce := 0, consumed := 0, phase := true, unconsumed := 0
    reserved := 0, vector := none, queue := [], writing := none }

/-- The notice ring in ABSENT (R81). R81 gives no base or size for it: both are 0 (DESIGN CHOICE, log entry 36). -/
def NoticeRing.absent : NoticeRing :=
  { active := false, base := 0, size := 0, produce := 0, consumed := 0, phase := true, unconsumed := 0
    writing := none }

/-- A clear dirty flag of a slot (R168). -/
def SlotDirty.clear : SlotDirty := { set := false, stateKind := false, changedKind := false, mask := 0 }

/-- A clear dirty flag of a ring (R168). -/
def RingDirty.clear : RingDirty := { fault := none }

/-- The lane arbiter after any reset (R153). -/
def Lane.initial : Lane :=
  { state := .disabled, holder := none, holderRing := none, waiters := [], settleTimer := none
    settleInterval := Config.laneSettleMs, lsel := 0, len := false }

/-- The machine right after a power-on reset has been released with no module in any bay: every block at
the value its chapter gives. The levels of the input lines and of the strap are log entry 8. -/
def State.reset : State :=
  { pending := []
    condition := .off, intEnable := false, haltCause := .none, postError := false
    startLo := 0, startHi := 0, startCopy := none, startRead := none, startMoot := 0
    laneFitted := true, inReset := false, readData := 0
    slots := Vector.replicate 8 (Slot.initial false false false true true)
    engines := Vector.replicate 8 Engine.initial
    rings := Vector.replicate 8 RequestRing.absent
    roundRobin := 0, recordRead := none
    waitOrders := Vector.replicate 8 []
    control := none, snapshotWrite := none, deferred := []
    locks := [], lane := Lane.initial
    compRings := Vector.replicate 4 CompletionRing.absent
    notices := NoticeRing.absent
    slotDirty := Vector.replicate 8 SlotDirty.clear
    ringDirty := Vector.replicate 8 RingDirty.clear
    vectorPending := Vector.replicate 5 false
    vectorMasked := Vector.replicate 5 true
    messagesSent := Vector.replicate 5 0
    freeCount := 0 }

end Sys2Proof.Machine
end

