-- ==== Sys2Proof/Machine/Flags.lean ====
section
/-! DEFINITION. Codes (R191), record flags (R185, R186), the change mask (R76) and the status words of
the register window (R174, R177, R189). -/

namespace Sys2Proof.Machine

/-! ### Codes (R191) -/

/-- Slot state codes. -/
def SlotState.code : SlotState → Nat
  | .empty => 0 | .settling => 1 | .probing => 2 | .powering => 3
  | .reading => 4 | .ready => 5 | .held => 6 | .fault => 7

/-- Reason codes. -/
def Reason.code : Reason → Nat
  | .none => 0 | .noSense => 1 | .badSense => 2 | .classBlocked => 3
  | .manualOff => 4 | .pgTimeout => 5 | .powerLost => 6 | .busStuck => 7

/-- Descriptor state codes. -/
def DescState.code : DescState → Nat
  | .none => 0 | .valid => 1 | .invalid _ => 2 | .absent => 3

/-- Invalid reason codes. -/
def InvalidReason.code : InvalidReason → Nat
  | .magic => 1 | .version => 2 | .headerCheck => 3 | .geometry => 4 | .extOverrun => 5
  | .extNoEnd => 6 | .extCheck => 7 | .duplicateEntry => 8 | .entryLength => 9

/-- The invalid reason code of a descriptor state, or 0. -/
def DescState.reasonCode : DescState → Nat
  | .invalid why => why.code
  | .none | .valid | .absent => 0

/-- A descriptor state in the detail of a completion: its code, then its invalid reason code (R185). -/
def DescState.detail (d : DescState) : Nat := d.code + 256 * d.reasonCode

/-- Supply class codes. -/
def SupplyClass.code : SupplyClass → Nat
  | .none => 0 | .s33 => 1 | .s50 => 2 | .s120 => 3 | .s33s120 => 4

/-- The PWRSELn code of a class (R5). -/
def SupplyClass.pwrsel : SupplyClass → Fin 4
  | .none => 0 | .s33 => 0 | .s50 => 1 | .s120 => 2 | .s33s120 => 3

/-- Lane state codes. -/
def LaneState.code : LaneState → Nat
  | .disabled => 0 | .free => 1 | .held => 2 | .settling => 3

/-- Ring state codes. -/
def RingState.code : RingState → Nat
  | .absent => 0 | .active => 1 | .faulted => 2 | .draining => 3

/-- Reading codes of the snapshot (R187). -/
def Reading.code : Reading → Nat
  | .open => 0 | .ground => 1 | .linked => 2

/-- Lane role codes of the snapshot (R187). -/
def LaneRole.code : LaneRole → Nat
  | .none => 0 | .holder => 1 | .waiter => 2

/-- RING_FAULT causes (R186). -/
def FaultCause.code : FaultCause → Nat
  | .badTail => 1 | .readError => 2

/-- Halt cause codes (R189). -/
def HaltCause.code : HaltCause → Nat
  | .none => 0 | .startRecord => 1 | .controlFetch => 2 | .postWrite => 3

/-- Status codes. -/
def Status.code : Status → Nat
  | .success => 0 | .granted => 1 | .mismatch => 2 | .invalidKind => 3 | .invalidField => 4
  | .outOfRange => 5 | .duplicateTag => 6 | .notReady => 7 | .stale => 8 | .protectedArea => 9
  | .locked => 10 | .busStuck => 11 | .conflict => 12 | .overlap => 13 | .tableFull => 14
  | .notHeld => 15 | .alreadyHeld => 16 | .duplicate => 17 | .laneBusy => 18
  | .laneUnavailable => 19 | .timeout => 20 | .noResponse => 21 | .writeTimeout => 22
  | .writeRefused => 23 | .removed => 24 | .powerFault => 25 | .poweredOff => 26 | .aborted => 27
  | .tooLate => 28 | .ringDeleted => 29 | .notFound => 30 | .busy => 31 | .inUse => 32
  | .hostReadError => 33 | .hostWriteError => 34

/-- Kind codes. -/
def Kind.code : Kind → Nat
  | .read => 0x01 | .write => 0x02 | .compare => 0x03 | .refresh => 0x04 | .lock => 0x05
  | .unlock => 0x06 | .claimLane => 0x07 | .releaseLane => 0x08 | .createRequestRing => 0x10
  | .deleteRequestRing => 0x11 | .createCompletionRing => 0x12 | .deleteCompletionRing => 0x13
  | .setNoticeRing => 0x14 | .configureSlot => 0x15 | .slotPower => 0x16
  | .readSlotRecord => 0x17 | .abort => 0x18 | .laneControl => 0x19

/-- The kind a code names, or none for a value not listed. -/
def Kind.ofCode : Nat → Option Kind
  | 0x01 => some .read | 0x02 => some .write | 0x03 => some .compare | 0x04 => some .refresh
  | 0x05 => some .lock | 0x06 => some .unlock | 0x07 => some .claimLane
  | 0x08 => some .releaseLane | 0x10 => some .createRequestRing
  | 0x11 => some .deleteRequestRing | 0x12 => some .createCompletionRing
  | 0x13 => some .deleteCompletionRing | 0x14 => some .setNoticeRing
  | 0x15 => some .configureSlot | 0x16 => some .slotPower | 0x17 => some .readSlotRecord
  | 0x18 => some .abort | 0x19 => some .laneControl
  | _ => none

/-- The control kinds, which belong to ring 0 (R88). -/
def Kind.isControl : Kind → Bool
  | .read | .write | .compare | .refresh | .lock | .unlock | .claimLane | .releaseLane => false
  | .createRequestRing | .deleteRequestRing | .createCompletionRing | .deleteCompletionRing
  | .setNoticeRing | .configureSlot | .slotPower | .readSlotRecord | .abort | .laneControl => true

/-! ### Record flags -/

/-- The flags byte of a completion record: PHASE, PAGE_UNCERTAIN, REPARSE_FAILED (R185). -/
def completionFlags (phase uncertain reparseFailed : Bool) : Nat :=
  phase.toNat + 2 * uncertain.toNat + 4 * reparseFailed.toNat

/-- The flags byte of a notice record: PHASE, MERGED (R186). -/
def noticeFlags (phase merged : Bool) : Nat := phase.toNat + 2 * merged.toNat

/-- The change mask of R76 in the layout of R186: what differs between two descriptor field sets. -/
def changeMask (old new : Desc) : BitVec 7 :=
  BitVec.ofNat 7
    ((decide (old.state ≠ new.state)).toNat
      + 2 * (decide (old.closed ≠ new.closed)).toNat
      + 4 * (decide (old.capacity ≠ new.capacity ∨ old.pageSize ≠ new.pageSize)).toNat
      + 8 * (decide (old.protectEnd ≠ new.protectEnd)).toNat
      + 16 * (decide (old.powerBudget ≠ new.powerBudget)).toNat
      + 32 * (decide (old.laneWidth ≠ new.laneWidth)).toNat
      + 64 * (decide (old.label ≠ new.label)).toNat)

/-! ### Device indications and registers (R174, R177, R189) -/

/-- DEVCTL.ENABLE follows the device condition (R174). -/
def Condition.enabled : Condition → Bool
  | .starting | .running | .halted => true
  | .off | .resetting => false

/-- The device is halted. -/
def State.halted (s : State) : Bool := s.condition == .halted

/-- DEVSTAT.READY (R174). -/
def State.ready (s : State) : Bool := s.condition == .running

/-- DEVSTAT.RESET_BUSY (R174). -/
def State.resetBusy (s : State) : Bool := s.condition == .resetting

/-- The IDENT register: family code, revision, slot count and the strap as it stands. -/
def State.ident (s : State) : Word :=
  BitVec.ofNat 32 (0xA418 + 0x01 * 2 ^ 16 + 8 * 2 ^ 24 + s.laneFitted.toNat * 2 ^ 28)

/-- The DEVCTL register as read: RESET reads 0. -/
def State.devctl (s : State) : Word :=
  BitVec.ofNat 32 (s.condition.enabled.toNat + 4 * s.intEnable.toNat)

/-- The DEVSTAT register as read. -/
def State.devstat (s : State) : Word :=
  BitVec.ofNat 32 (s.ready.toNat + 2 * s.halted.toNat + 16 * s.haltCause.code
    + 256 * s.postError.toNat + 512 * s.resetBusy.toNat)

/-- What a read of a register offset returns (R175, R189, R190). Only the read of DEVSTAT changes
anything, and it has a row of the table. -/
def State.readRegister (s : State) (offset : Nat) : Word :=
  match offset with
  | 0x00 => s.ident
  | 0x04 => s.devctl
  | 0x08 => s.devstat
  | 0x0C => s.startLo
  | 0x10 => s.startHi
  | _ => 0

end Sys2Proof.Machine
end

