-- ==== Sys2Proof/Machine/Operands.lean ====
section
/-! DEFINITION. The layouts of Chapter 12: reading request and start records, the CONFIGURE_SLOT settings,
the aux fields and the module descriptor, and building completion, notice and snapshot records; validation
(R88) and the parse of a descriptor (R60 to R68). -/

namespace Sys2Proof.Machine

/-! ### Little-endian bytes (R182) -/

/-- The byte at an offset; 0 past the end. -/
def byteAt (l : List Byte) (i : Nat) : Nat := (l.getD i 0).toNat

/-- A 16-bit field. -/
def le16 (l : List Byte) (i : Nat) : Nat := byteAt l i + 256 * byteAt l (i + 1)

/-- A 32-bit field. -/
def le32 (l : List Byte) (i : Nat) : Nat := le16 l i + 65536 * le16 l (i + 2)

/-- A 64-bit field. -/
def le64 (l : List Byte) (i : Nat) : Nat := le32 l i + 4294967296 * le32 l (i + 4)

/-- The `k` lowest bytes of a number, least significant first. -/
def leBytes : Nat → Nat → List Byte
  | 0, _ => []
  | k + 1, v => BitVec.ofNat 8 v :: leBytes k (v / 256)

/-! ### CONFIGURE_SLOT settings (R184) -/

/-- The settings packed into 32 bits. -/
def SlotConfig.encode (c : SlotConfig) : Nat :=
  c.autoPower.toNat
    + 2 * (match c.speed with | .khz100 => 0 | .khz400 => 1)
    + 4 * c.retainPower.toNat
    + 16 * (c.supply.s33.toNat + 2 * c.supply.s50.toNat + 4 * c.supply.s120.toNat
        + 8 * c.supply.s33s120.toNat)
    + 2 ^ 8 * c.pollLimit + 2 ^ 16 * c.settleSteps + 2 ^ 21 * c.pgLimit

/-- The settings that 32 bits carry. -/
def SlotConfig.decode (w : Nat) : SlotConfig :=
  { autoPower := w.testBit 0
    supply := ⟨w.testBit 4, w.testBit 5, w.testBit 6, w.testBit 7⟩
    speed := if w.testBit 1 then .khz400 else .khz100
    pollLimit := w / 2 ^ 8 % 2 ^ 8
    settleSteps := w / 2 ^ 16 % 2 ^ 5
    pgLimit := w / 2 ^ 21 % 2 ^ 11
    retainPower := w.testBit 2 }

/-- Every setting lies within the range of R12. -/
def SlotConfig.inRange (c : SlotConfig) : Bool :=
  4 ≤ c.pollLimit && c.pollLimit ≤ 255 && 1 ≤ c.settleSteps && c.settleSteps ≤ 25
    && 20 ≤ c.pgLimit && c.pgLimit ≤ 500

/-- The class is in supply_allowed. -/
def SupplySet.allows (a : SupplySet) : SupplyClass → Bool
  | .none => false
  | .s33 => a.s33
  | .s50 => a.s50
  | .s120 => a.s120
  | .s33s120 => a.s33s120

/-! ### Aux sub-fields of a request (R184) -/

/-- Byte 12 of the record. -/
def Request.aux0 (q : Request) : Nat := q.aux.toNat % 256

/-- Byte 13 of the record. -/
def Request.aux1 (q : Request) : Nat := q.aux.toNat / 256 % 256

/-- Bytes 14 and 15 of the record. -/
def Request.auxHigh (q : Request) : Nat := q.aux.toNat / 65536

/-- The wait limit of a CLAIM_LANE, in bytes 12 and 13. -/
def Request.waitLimit (q : Request) : Nat := q.aux.toNat % 65536

/-- A ring id from an aux byte that validation has bounded by 7. -/
def ringIdOf (v : Nat) : RingId := ⟨v % 8, Nat.mod_lt _ (by decide)⟩

/-- A completion ring id from an aux byte that validation has bounded by 3. -/
def compRingIdOf (v : Nat) : CompRingId := ⟨v % 4, Nat.mod_lt _ (by decide)⟩

/-- A vector from an aux byte that validation has bounded by 3. -/
def vectorIdOf (v : Nat) : VectorId := ⟨v % 5, Nat.mod_lt _ (by decide)⟩

/-! ### Validation (R88, R103, R184) -/

/-- The 64-byte alignment of a host address. -/
def aligned64 (a : HostAddr) : Bool := a.toNat % 64 == 0

/-- The aux checks of a kind: record offsets in rising order, each with whether the field there is wrong.
A byte that the kind's layout leaves reserved is checked on its own; an aux field the kind does not use is
one field at offset 12 (log entry 19). -/
def auxChecks (k : Kind) (l : List Byte) : List (Nat × Bool) :=
  let b12 := byteAt l 12
  let b13 := byteAt l 13
  let high := le16 l 14
  let rsv13 : Nat × Bool := (13, decide (b13 ≠ 0))
  let rsvHigh : List (Nat × Bool) := [(14, decide (byteAt l 14 ≠ 0)), (15, decide (byteAt l 15 ≠ 0))]
  let ringSize : Nat × Bool := (14, decide (high < 2 ∨ 1024 < high))
  match k with
  | .read | .write | .compare | .refresh | .lock | .unlock | .releaseLane | .readSlotRecord =>
    [(12, decide (le32 l 12 ≠ 0))]
  | .claimLane =>
    (12, decide (¬ (le16 l 12 ≤ 60000 ∨ le16 l 12 = 65535))) :: rsvHigh
  | .createRequestRing =>
    [(12, decide (b12 < 1 ∨ 7 < b12)), (13, decide (3 < b13)), ringSize]
  | .createCompletionRing =>
    [(12, decide (b12 < 1 ∨ 3 < b12)), (13, decide (b13 < 1 ∨ 3 < b13)), ringSize]
  | .deleteRequestRing => (12, decide (b12 < 1 ∨ 7 < b12)) :: rsv13 :: rsvHigh
  | .deleteCompletionRing => (12, decide (b12 < 1 ∨ 3 < b12)) :: rsv13 :: rsvHigh
  | .setNoticeRing =>
    [(12, decide (b12 ≠ 0)), rsv13, (14, decide (¬ (high = 0 ∨ (2 ≤ high ∧ high ≤ 256))))]
  | .configureSlot =>
    let c := SlotConfig.decode (le32 l 12)
    [(12, (le32 l 12).testBit 3), (13, decide (c.pollLimit < 4)),
      (14, decide (c.settleSteps < 1 ∨ 25 < c.settleSteps ∨ c.pgLimit < 20 ∨ 500 < c.pgLimit))]
  | .slotPower => (12, decide (1 < b12)) :: rsv13 :: rsvHigh
  | .abort => [(12, decide (b12 < 1 ∨ 7 < b12)), rsv13]
  | .laneControl =>
    (12, decide (1 < b12))
      :: (13, if b12 = 0 then decide (b13 ≠ 0) else decide (b13 < 1 ∨ 50 < b13)) :: rsvHigh

/-- The kind uses the slot field. -/
def Kind.usesSlot : Kind → Bool
  | .read | .write | .compare | .refresh | .lock | .unlock | .claimLane | .releaseLane
  | .configureSlot | .slotPower | .readSlotRecord => true
  | .createRequestRing | .deleteRequestRing | .createCompletionRing | .deleteCompletionRing
  | .setNoticeRing | .abort | .laneControl => false

/-- The kind uses the generation field. -/
def Kind.usesGeneration : Kind → Bool
  | .read | .write | .compare | .refresh | .lock | .unlock | .claimLane => true
  | _ => false

/-- The kind uses the address and length fields. -/
def Kind.usesRange : Kind → Bool
  | .read | .write | .compare | .lock | .unlock => true
  | _ => false

/-- The buffer field of the kind is wrong: unused and not 0, or a ring base that is not aligned. -/
def bufferWrong (k : Kind) (l : List Byte) : Bool :=
  let b := BitVec.ofNat 64 (le64 l 16)
  match k with
  | .read | .write | .compare | .readSlotRecord => false
  | .createRequestRing | .createCompletionRing => !aligned64 b
  | .setNoticeRing => if le16 l 14 = 0 then decide (b ≠ 0) else !aligned64 b
  | .refresh | .lock | .unlock | .claimLane | .releaseLane | .deleteRequestRing
  | .deleteCompletionRing | .configureSlot | .slotPower | .abort | .laneControl => decide (b ≠ 0)

/-- The checks of step 2 of R88 in rising order of record offset. -/
def fieldChecks (k : Kind) (l : List Byte) : List (Nat × Bool) :=
  [ (1, decide (byteAt l 1 ≠ 0)),
    (4, if k.usesSlot then decide (7 < byteAt l 4) else decide (byteAt l 4 ≠ 0)),
    (5, decide (byteAt l 5 ≠ 0)),
    (6, !k.usesGeneration && decide (le16 l 6 ≠ 0)),
    (8, !k.usesRange && decide (le16 l 8 ≠ 0)),
    (10, if k.usesRange then decide (le16 l 10 = 0) else decide (le16 l 10 ≠ 0)) ]
  ++ auxChecks k l
  ++ [(16, bufferWrong k l)]
  ++ [24, 25, 26, 27, 28, 29, 30, 31].map fun i => (i, decide (byteAt l i ≠ 0))

/-- The offset of the lowest-placed field found wrong, if any (R90). -/
def firstWrong (checks : List (Nat × Bool)) : Option Nat :=
  (checks.find? fun c => c.2).map fun c => c.1

/-- The record's fields as a request of a kind. -/
def requestOf (k : Kind) (l : List Byte) : Request :=
  { kind := k
    tag := BitVec.ofNat 16 (le16 l 2)
    slot := ringIdOf (byteAt l 4)
    generation := BitVec.ofNat 16 (le16 l 6)
    address := le16 l 8
    length := le16 l 10
    aux := BitVec.ofNat 32 (le32 l 12)
    buffer := BitVec.ofNat 64 (le64 l 16) }

/-- The outcome of validation: a valid request, or the status and detail of the refusal. -/
inductive Verdict where
  | valid (q : Request)
  | refuse (status : Status) (detail : Nat)
deriving DecidableEq, Repr

/-- The four steps of validation (R88) of a record of ring `r` whose outstanding tags are `tags`. -/
def validate (r : RingId) (tags : List Half) (l : List Byte) : Verdict :=
  match Kind.ofCode (byteAt l 0) with
  | none => .refuse .invalidKind (byteAt l 0)
  | some k =>
    if k.isControl ≠ decide (r = 0) then .refuse .invalidKind (byteAt l 0)
    else
      match firstWrong (fieldChecks k l) with
      | some off => .refuse .invalidField off
      | none =>
        let q := requestOf k l
        if k.usesRange = true ∧ Config.rawCapacity < q.address + q.length then
          .refuse .outOfRange (q.address + q.length)
        else if q.tag ∈ tags then .refuse .duplicateTag 0
        else .valid q

/-! ### The start record (R178, R183) -/

/-- The start record's fields. -/
def startRecordOf (l : List Byte) : StartRecord :=
  { ringBase := BitVec.ofNat 64 (le64 l 0)
    ringSize := le16 l 8
    compBase := BitVec.ofNat 64 (le64 l 16)
    compSize := le16 l 24 }

/-- Steps 3 to 5 of the start-record check (R178). -/
def startRecordOk (l : List Byte) : Bool :=
  let r := startRecordOf l
  decide (2 ≤ r.ringSize ∧ r.ringSize ≤ 1024 ∧ 2 ≤ r.compSize ∧ r.compSize ≤ 1024)
    && aligned64 r.ringBase && aligned64 r.compBase
    && ([10, 11, 12, 13, 14, 15, 26, 27, 28, 29, 30, 31].all fun i => byteAt l i == 0)

/-! ### Records the part writes -/

/-- The 16 bytes of a completion record, with the ring's phase (R185). -/
def Completion.bytes (c : Completion) (phase : Bool) : List Byte :=
  leBytes 2 c.tag.toNat ++ leBytes 1 c.ring.val ++ leBytes 1 c.status.code ++ leBytes 1 c.slot
    ++ leBytes 1 (completionFlags phase c.pageUncertain c.reparseFailed)
    ++ leBytes 2 c.generation.toNat ++ leBytes 2 c.bytesDone ++ leBytes 2 c.ringHead
    ++ leBytes 4 c.detail

/-- The 16 bytes of a notice record (R186). -/
def noticeBytes (kind subject state reason : Nat) (generation : Half) (desc : DescState)
    (flags detail : Nat) : List Byte :=
  leBytes 1 kind ++ leBytes 1 subject ++ leBytes 1 state ++ leBytes 1 reason
    ++ leBytes 2 generation.toNat ++ leBytes 1 desc.code ++ leBytes 1 desc.reasonCode
    ++ leBytes 1 flags ++ leBytes 3 0 ++ leBytes 4 detail

/-- The detail of a RING_FAULT notice: cause in byte 12, head in bytes 14 and 15 (R186). -/
def ringFaultDetail (cause : FaultCause) (head : Nat) : Nat := cause.code + 65536 * head

/-- The presence byte of a snapshot (R187). -/
def Slot.presence (x : Slot) : Nat :=
  x.sense.isSome.toNat + 2 * x.desc.identity.isSome.toNat + 4 * x.desc.powerBudget.isSome.toNat
    + 8 * x.desc.laneWidth.isSome.toNat + 16 * x.desc.label.isSome.toNat

/-- The reading codes of a sense code, 0 when absent. -/
def senseCodes : Option SensePair → Nat × Nat
  | none => (0, 0)
  | some p => (p.a.code, p.b.code)

/-- The serial bytes of a snapshot, 0 when absent. -/
def serialBytes : Option Identity → List Byte
  | none => leBytes 8 0
  | some i => i.serial.toList

/-- A label padded to 32 bytes. -/
def labelBytes (l : Option (List Byte)) : List Byte :=
  let b := (l.getD []).take 32
  b ++ List.replicate (32 - b.length) 0

/-- The 128 bytes of the snapshot of slot `n` (R187). A field that is absent reads 0. -/
def Slot.snapshot (x : Slot) (n : SlotId) : List Byte :=
  leBytes 1 n.val ++ leBytes 1 x.state.code ++ leBytes 1 x.reason.code ++ leBytes 1 x.presence
    ++ leBytes 2 x.generation.toNat
    ++ leBytes 1 (senseCodes x.sense).1 ++ leBytes 1 (senseCodes x.sense).2
    ++ leBytes 1 x.supplyClass.code ++ leBytes 1 x.desc.state.code
    ++ leBytes 1 x.desc.state.reasonCode ++ leBytes 1 x.desc.pageSize ++ leBytes 2 x.desc.capacity
    ++ leBytes 2 ((x.desc.identity.map fun i => i.vendor.toNat).getD 0)
    ++ leBytes 2 ((x.desc.identity.map fun i => i.kind.toNat).getD 0)
    ++ serialBytes x.desc.identity
    ++ leBytes 2 (x.desc.protectEnd.getD 0)
    ++ leBytes 1 x.desc.closed.toNat
    ++ leBytes 1 (x.desc.laneWidth.getD 0)
    ++ leBytes 2 ((x.desc.powerBudget.map fun p => p.toNat).getD 0)
    ++ leBytes 1 ((x.desc.label.map List.length).getD 0)
    ++ leBytes 1 (x.desc.unknownCount.getD 0)
    ++ leBytes 1 x.prot.toNat ++ leBytes 1 x.stuck ++ leBytes 1 x.laneRole.code ++ leBytes 1 0
    ++ leBytes 2 x.desc.span ++ leBytes 4 x.config.encode
    ++ labelBytes x.desc.label ++ leBytes 52 0

/-! ### The module descriptor (Chapter 4) -/

/-- The sum of bytes modulo 256. -/
def byteSum (l : List Byte) : Nat := (l.foldl (fun a b => a + b.toNat) 0) % 256

/-- The capacity a capacity code declares (R63). -/
def capacityOfCode (c : Nat) : Nat := 256 * 2 ^ (c % 4)

/-- The page size a page code declares; code 3 is invalid (R63). -/
def pageOfCode (c : Nat) : Nat := 8 * 2 ^ c

/-- The identity fields of a header (R188). -/
def identityOf (l : List Byte) : Identity :=
  { vendor := BitVec.ofNat 16 (le16 l 5)
    kind := BitVec.ofNat 16 (le16 l 7)
    serial := Vector.ofFn fun i => l.getD (9 + i.val) 0 }

/-- The header stage (R61 to R64): the header's fields, or the reason of the first test that fails. -/
def parseHeader (l : List Byte) : InvalidReason ⊕ Header :=
  let geometry := byteAt l 3
  let capacity := capacityOfCode (geometry % 4)
  let pageCode := geometry / 4 % 4
  let extLength := byteAt l 4
  let protectEnd := le16 l 17
  if byteAt l 0 ≠ 0xC3 ∨ byteAt l 1 ≠ 0x5A then .inl .magic
  else if byteAt l 2 ≠ 1 then .inl .version
  else if byteSum (l.take 30 ++ (l.drop 31).take 1) ≠ 0 then .inl .headerCheck
  else if pageCode = 3 ∨ geometry / 16 ≠ 0 ∨ 224 < extLength ∨ capacity < protectEnd then
    .inl .geometry
  else
    .inr
      { capacity := capacity
        pageSize := pageOfCode pageCode
        extLength := extLength
        identity := identityOf l
        protectEnd := max protectEnd (32 + extLength)
        closed := byteAt l 30 == 0xC1 }

/-- What the walk of the extension area has gathered (R67). -/
structure ExtFields where
  power   : Option Half
  lane    : Option Nat
  label   : Option (List Byte)
  unknown : Nat
deriving DecidableEq, Repr

/-- The fields before the first entry. -/
def ExtFields.start : ExtFields := { power := none, lane := none, label := none, unknown := 0 }

/-- One known or unknown entry (R67), its payload inside the area: the fields with it, or its fault. -/
def takeEntry (f : ExtFields) (type : Nat) (payload : List Byte) : InvalidReason ⊕ ExtFields :=
  match type with
  | 0x01 =>
    if f.power.isSome then .inl .duplicateEntry
    else if payload.length ≠ 2 then .inl .entryLength
    else .inr { f with power := some (BitVec.ofNat 16 (le16 payload 0)) }
  | 0x02 =>
    if f.lane.isSome then .inl .duplicateEntry
    else if payload.length ≠ 1 ∨ byteAt payload 0 < 1 ∨ 4 < byteAt payload 0 then .inl .entryLength
    else .inr { f with lane := some (byteAt payload 0) }
  | 0x03 =>
    if f.label.isSome then .inl .duplicateEntry
    else if payload.length < 1 ∨ 32 < payload.length then .inl .entryLength
    else .inr { f with label := some payload }
  | _ => .inr { f with unknown := f.unknown + 1 }

/-- The walk of the extension area (R65 to R67). `done` is the part of the area walked so far and `rest`
the part still to walk; each turn takes at least two bytes, so fuel of the area's length suffices. -/
def walkExt : Nat → List Byte → List Byte → ExtFields → InvalidReason ⊕ ExtFields
  | 0, _, _, _ => .inl .extNoEnd
  | fuel + 1, done, rest, f =>
    match rest with
    | [] => .inl .extNoEnd
    | [_] => .inl .extOverrun
    | t :: len :: tail =>
      if 64 < len.toNat then .inl .entryLength
      else if tail.length < len.toNat then .inl .extOverrun
      else
        let payload := tail.take len.toNat
        let walked := done ++ t :: len :: payload
        if t.toNat = 0 then
          if len.toNat ≠ 1 then .inl .entryLength
          else if byteSum walked = 0 then .inr f
          else .inl .extCheck
        else
          match takeEntry f t.toNat payload with
          | .inl why => .inl why
          | .inr f' => walkExt fuel walked (tail.drop len.toNat) f'

/-- The descriptor fields of a VALID verdict (R69). -/
def validDesc (h : Header) (f : ExtFields) : Desc :=
  { state := .valid, capacity := h.capacity, pageSize := h.pageSize, identity := some h.identity
    protectEnd := some h.protectEnd, closed := h.closed, powerBudget := f.power
    laneWidth := f.lane, label := f.label, unknownCount := some f.unknown
    span := 32 + h.extLength }

/-- The verdict of the extension stage (R65 to R69). -/
def parseExtension (h : Header) (area : List Byte) : Desc :=
  match walkExt (area.length + 1) [] area ExtFields.start with
  | .inl why => Desc.raw (.invalid why)
  | .inr f => validDesc h f

/-! ### Bus bytes (R44, R45) -/

/-- The address byte: memory code 1011, block bits, direction (R44). -/
def addressByte (block : Nat) (isRead : Bool) : Byte :=
  BitVec.ofNat 8 (0xB0 + 2 * (block % 8) + isRead.toNat)

/-- The offset byte: address bits 7 to 0 (R44). -/
def offsetByte (address : Nat) : Byte := BitVec.ofNat 8 address

/-- The block bits of an address (R44). -/
def blockOf (address : Nat) : Nat := address / Config.blockBytes % 8

/-- What the part sends in a read transaction that starts at an address (R45). -/
def readFrame (address : Nat) : List Byte :=
  [addressByte (blockOf address) false, offsetByte address, addressByte (blockOf address) true]

/-- What the part sends in the write transaction of a piece with these data bytes (R45). -/
def writeFrame (start : Nat) (data : List Byte) : List Byte :=
  addressByte (blockOf start) false :: offsetByte start :: data

/-- What the part sends in a poll of a piece (R45). -/
def pollFrame (start : Nat) : List Byte := [addressByte (blockOf start) false]

end Sys2Proof.Machine
end

