-- ==== Sys2Proof/Machine/Ops.lean ====
section
/-! DEFINITION. Named accesses to the state: one home for each block's reads and writes, the data buffer,
and the plain arithmetic of generations and ring indices. -/

namespace Sys2Proof.Machine

/-! ### Accessors -/

/-- The slot record and sequencer of slot `n`. -/
def State.slot (s : State) (n : SlotId) : Slot := s.slots[n]

/-- Replace slot `n`. -/
def State.setSlot (s : State) (n : SlotId) (x : Slot) : State := { s with slots := s.slots.set n x }

/-- Change slot `n`. -/
def State.modSlot (s : State) (n : SlotId) (f : Slot → Slot) : State := s.setSlot n (f (s.slot n))

/-- The bus engine of slot `n`. -/
def State.engine (s : State) (n : SlotId) : Engine := s.engines[n]

/-- Replace the engine of slot `n`. -/
def State.setEngine (s : State) (n : SlotId) (e : Engine) : State :=
  { s with engines := s.engines.set n e }

/-- Change the engine of slot `n`. -/
def State.modEngine (s : State) (n : SlotId) (f : Engine → Engine) : State :=
  s.setEngine n (f (s.engine n))

/-- The ring table entry of request ring `r`. -/
def State.ring (s : State) (r : RingId) : RequestRing := s.rings[r]

/-- Replace the ring table entry of request ring `r`. -/
def State.setRing (s : State) (r : RingId) (x : RequestRing) : State :=
  { s with rings := s.rings.set r x }

/-- Change the ring table entry of request ring `r`. -/
def State.modRing (s : State) (r : RingId) (f : RequestRing → RequestRing) : State :=
  s.setRing r (f (s.ring r))

/-- The poster's entry of completion ring `c`. -/
def State.comp (s : State) (c : CompRingId) : CompletionRing := s.compRings[c]

/-- Replace the poster's entry of completion ring `c`. -/
def State.setComp (s : State) (c : CompRingId) (x : CompletionRing) : State :=
  { s with compRings := s.compRings.set c x }

/-- Change the poster's entry of completion ring `c`. -/
def State.modComp (s : State) (c : CompRingId) (f : CompletionRing → CompletionRing) : State :=
  s.setComp c (f (s.comp c))

/-- The wait order of slot `n` (R92). -/
def State.waitOrder (s : State) (n : SlotId) : List RingId := s.waitOrders[n]

/-- Replace the wait order of slot `n`. -/
def State.setWaitOrder (s : State) (n : SlotId) (l : List RingId) : State :=
  { s with waitOrders := s.waitOrders.set n l }

/-- The dirty flag of slot `n` (R168). -/
def State.dirtySlot (s : State) (n : SlotId) : SlotDirty := s.slotDirty[n]

/-- Replace the dirty flag of slot `n`. -/
def State.setDirtySlot (s : State) (n : SlotId) (d : SlotDirty) : State :=
  { s with slotDirty := s.slotDirty.set n d }

/-- The dirty flag of request ring `r` (R168). -/
def State.dirtyRing (s : State) (r : RingId) : RingDirty := s.ringDirty[r]

/-- Replace the dirty flag of request ring `r`. -/
def State.setDirtyRing (s : State) (r : RingId) (d : RingDirty) : State :=
  { s with ringDirty := s.ringDirty.set r d }

/-- The pending flag of vector `v` (R171). -/
def State.vecPending (s : State) (v : VectorId) : Bool := s.vectorPending[v]

/-- Write the pending flag of vector `v`. -/
def State.setVecPending (s : State) (v : VectorId) (b : Bool) : State :=
  { s with vectorPending := s.vectorPending.set v b }

/-- The mask indication of vector `v` (R172). -/
def State.vecMasked (s : State) (v : VectorId) : Bool := s.vectorMasked[v]

/-- Write the mask indication of vector `v`. -/
def State.setVecMasked (s : State) (v : VectorId) (b : Bool) : State :=
  { s with vectorMasked := s.vectorMasked.set v b }

/-- How many messages vector `v` has sent. -/
def State.msgCount (s : State) (v : VectorId) : Nat := s.messagesSent[v]

/-- Change the lane arbiter. -/
def State.modLane (s : State) (f : Lane → Lane) : State := { s with lane := f s.lane }

/-- The eight slots, for effects that reach each of them. -/
def allSlots : List SlotId := [0, 1, 2, 3, 4, 5, 6, 7]

/-- The eight request rings. -/
def allRings : List RingId := [0, 1, 2, 3, 4, 5, 6, 7]

/-- The four completion rings. -/
def allCompRings : List CompRingId := [0, 1, 2, 3]

/-- The five vectors. -/
def allVectors : List VectorId := [0, 1, 2, 3, 4]

/-- The slot is in one of the four approach states or READY: requests may wait there (R2). -/
def SlotState.serving : SlotState → Bool
  | .settling | .probing | .powering | .reading | .ready => true
  | .empty | .held | .fault => false

/-- PWRENn is asserted in these states (R1). -/
def SlotState.powered : SlotState → Bool
  | .powering | .reading | .ready => true
  | .empty | .settling | .probing | .held | .fault => false

/-- An insertion has been accepted and the module not seen to leave: the states a removal acts in (R29). -/
def SlotState.inserted : SlotState → Bool
  | .probing | .powering | .reading | .ready | .held | .fault => true
  | .empty | .settling => false

/-! ### Generations and indices -/

/-- The generation after an accepted insertion (R4). -/
def nextGeneration (g : Half) : Half := if g = 65535 then 1 else g + 1

/-- The place after `i` in a ring of `size` places (R82). -/
def nextIndex (size i : Nat) : Nat := if i + 1 < size then i + 1 else 0

/-- `a - b` modulo `size` (R82). -/
def ringDiff (size a b : Nat) : Nat := (a + size - b) % size

/-- The posted count of a request ring (R82). -/
def RequestRing.posted (x : RequestRing) : Nat := ringDiff x.size x.tail x.head

/-- The address of record `k` of a request ring (R80). -/
def RequestRing.recordAddress (x : RequestRing) (k : Nat) : HostAddr :=
  x.base + BitVec.ofNat 64 (32 * k)

/-- The address of record `k` of a completion or notice ring at `base` (R81). -/
def postAddress (base : HostAddr) (k : Nat) : HostAddr := base + BitVec.ofNat 64 (16 * k)

/-- The completion ring has credit (R85). -/
def CompletionRing.hasCredit (x : CompletionRing) : Bool :=
  decide (x.unconsumed + x.reserved < x.size - 1)

/-! ### The data buffer (R40) -/

/-- The byte at a position. An unlisted position reads 0: the buffer holds zeros after reset (R40). -/
def Buffer.read (b : Buffer) (a : Nat) : Byte :=
  match b with
  | [] => 0
  | (k, v) :: rest => if k = a then v else Buffer.read rest a

/-- Place a byte at a position. The list stays sorted, and writing 0 removes the entry. -/
def Buffer.write (b : Buffer) (a : Nat) (v : Byte) : Buffer :=
  match b with
  | [] => if v = 0 then [] else [(a, v)]
  | (k, w) :: rest =>
    if a < k then (if v = 0 then (k, w) :: rest else (a, v) :: (k, w) :: rest)
    else if a = k then (if v = 0 then rest else (a, v) :: rest)
    else (k, w) :: Buffer.write rest a v

/-- Place bytes at positions from `a` up. -/
def Buffer.writeAll (b : Buffer) (a : Nat) : List Byte → Buffer
  | [] => b
  | v :: vs => Buffer.writeAll (Buffer.write b a v) (a + 1) vs

/-- `len` bytes from position `a`. -/
def Buffer.readAll (b : Buffer) (a : Nat) : Nat → List Byte
  | 0 => []
  | len + 1 => Buffer.read b a :: Buffer.readAll b (a + 1) len

/-- The canonical form: positions below 2048 and strictly rising, and no entry of value 0. -/
def Buffer.wf (b : Buffer) : Bool :=
  match b with
  | [] => true
  | (k, v) :: rest =>
    decide (k < Config.rawCapacity) && decide (v ≠ 0)
      && (match rest with
          | [] => true
          | (k', _) :: _ => decide (k < k'))
      && Buffer.wf rest

/-! ### Bus phases and lines -/

/-- The part clocks the bus in this phase: a transaction is open or a recovery runs (R40). -/
def BusPhase.clocking : BusPhase → Bool
  | .addressing | .sending | .receiving | .polling | .recovery => true
  | .idle | .pollWait | .retryWait => false

/-- Enter a bus phase: between transactions both lines are released (R42). -/
def Engine.enter (e : Engine) (p : BusPhase) : Engine :=
  let d := if p.clocking then LineDrive.clocked else LineDrive.released
  { e with phase := p, scl := d, sda := d, frame := if p.clocking then e.frame else [] }

/-- The engine with its bus IDLE and no piece: what a request's end leaves. -/
def Engine.idled (e : Engine) : Engine := { e.enter .idle with piece := none }

/-- The bus values of R40 after a function reset: all but the data buffer. R40 gives none for the poll limit in use,
which keeps its last value (DESIGN CHOICE, log entry 25). -/
def Engine.busReset (e : Engine) : Engine :=
  { e.idled with attempt := 1, pollCounter := 0, stuckCounter := 0, block := 0, speed := .khz100 }

/-- The cut of R59: both lines released at once, phase IDLE, no piece, poll counter 0, and attempt count,
stuck counter and recovery abandoned. R59 gives no values for the two abandoned counts, the current block and the
speed in use: the counts are 1 and 0, block and speed stay (DESIGN CHOICE, log entry 39). -/
def Engine.cut (e : Engine) : Engine :=
  { e.idled with attempt := 1, pollCounter := 0, stuckCounter := 0, closing := false, closeFill := none }

/-- The engine with no work left: no request in execution, no descriptor read, nothing being closed. -/
def Engine.workless (e : Engine) : Engine :=
  { e with exec := none, descRead := none, closing := false, closeFill := none }

/-- A transaction is open on the bus of the engine. -/
def BusPhase.open : BusPhase → Bool
  | .addressing | .sending | .receiving | .polling => true
  | .idle | .pollWait | .retryWait | .recovery => false

end Sys2Proof.Machine
end

