-- ==== Sys2Proof/Machine/Poster.lean ====
section
/-! DEFINITION. The completion poster: interrupt vectors (R171, R172), completion records (R93 to R96),
notices and dirty flags (R166 to R170). -/

namespace Sys2Proof.Machine

/-! ### Vectors -/

/-- Send the vector's message when its flag is pending, INT_ENABLE is set and the vector is not masked:
the message leaves and the flag is cleared (R172). -/
def State.deliver (s : State) (v : VectorId) : State :=
  if s.vecPending v = true ∧ s.intEnable = true ∧ s.vecMasked v = false then
    { s.setVecPending v false with messagesSent := s.messagesSent.set v (s.msgCount v + 1) }
  else s

/-- Raise a vector: set its pending flag, which leads to its message at once when it may (R171, R172). -/
def State.raise (s : State) (v : VectorId) : State := (s.setVecPending v true).deliver v

/-- Send every message that may leave now (R172). -/
def State.deliverAll (s : State) : State := allVectors.foldl State.deliver s

/-- Raise the vector a ring names, if it names one. -/
def State.raiseOpt (s : State) (v : Option VectorId) : State :=
  match v with
  | none => s
  | some v => s.raise v

/-! ### Completion records -/

/-- Issue the write of the next result of completion ring `c`, when none is in progress and the device is
not halted (R94, R99): the 16 bytes at base + 16 × produce index, PHASE equal to the ring's phase. -/
def State.issueCompletion (s : State) (c : CompRingId) : State :=
  let x := s.comp c
  if s.halted then s
  else
    match x.writing, x.queue with
    | none, r :: rest =>
      s.setComp c { x with
        queue := rest
        writing := some (r,
          { address := postAddress x.base x.produce, bytes := r.bytes x.phase, moot := false }) }
    | _, _ => s

/-- Hand one result to the poster (R94). While the device is halted the result is discarded (R99). -/
def State.handOver (s : State) (r : Completion) : State :=
  if s.halted then s
  else
    match (s.ring r.ring).bound with
    | none => s
    | some c => (s.modComp c fun x => { x with queue := x.queue ++ [r] }).issueCompletion c

/-- Hand results to the poster one after another. -/
def State.handAll (s : State) (rs : List Completion) : State := rs.foldl State.handOver s

/-- Merge groups of results that the manual leaves unordered among each other, keeping the order inside
each group. Which group gives the next result is a free choice; with at most one group left there is none
to make. `k` counts the choices made before. Fuel of the number of results plus groups suffices. -/
def freeMerge : Nat → Nat → List (List Completion) → List Completion × Nat
  | 0, k, gs => (gs.flatten, k)
  | fuel + 1, k, gs =>
    match gs.filter (fun g => !g.isEmpty) with
    | [] => ([], k)
    | [g] => (g, k)
    | g :: h :: rest =>
      let all := g :: h :: rest
      let i := Config.freeChoice k % all.length
      let picked := all.getD i []
      let (out, k') := freeMerge fuel (k + 1) (all.set i picked.tail)
      (picked.take 1 ++ out, k')

/-- Hand groups of results to the poster in an order the manual leaves open between the groups. -/
def State.handMerged (s : State) (groups : List (List Completion)) : State :=
  let m := freeMerge (groups.flatten.length + 1) s.freeCount groups
  { s with freeCount := m.2 }.handAll m.1

/-- Return one reservation of the completion ring that request ring `r` is bound to (R85). -/
def State.returnReservation (s : State) (r : RingId) : State :=
  match (s.ring r).bound with
  | none => s
  | some c => s.modComp c fun x => { x with reserved := x.reserved - 1 }

/-- The plain completion of a request: bytes_done 0, no flags. -/
def completionOf (ring : RingId) (tag : Half) (slot : Nat) (head : Nat) (status : Status)
    (generation : Half) (detail : Nat) : Completion :=
  { ring := ring, tag := tag, status := status, slot := slot, generation := generation
    bytesDone := 0, ringHead := head, detail := detail, pageUncertain := false
    reparseFailed := false, refused := false }

/-- The completion of a list entry that never started (R34, R115): bytes_done 0, no flags, detail 0. -/
def Entry.ended (e : Entry) (n : SlotId) (generation : Half) (status : Status) : Completion :=
  completionOf e.ring e.tag n.val e.ringHead status generation 0

/-! ### Notices -/

/-- A dirty flag is set. -/
def State.anyDirty (s : State) : Bool :=
  (allSlots.any fun n => (s.dirtySlot n).set) || (allRings.any fun r => (s.dirtyRing r).fault.isSome)

/-- A notice record may be written now: the ring ACTIVE with room, no notice write in progress and the
device not halted (R167, R169). -/
def State.noticeRoom (s : State) : Bool :=
  s.notices.active && decide (s.notices.unconsumed < s.notices.size - 1)
    && s.notices.writing.isNone && !s.halted

/-- The 16 bytes of a notice record as its write is issued (R166, R169): slot fields from the slot record
now, ring state now, fault as reported. -/
def State.noticeRecord (s : State) (p : Report) (merged : Bool) : List Byte :=
  let flags := noticeFlags s.notices.phase merged
  match p with
  | .slot n stateKind _ mask =>
    let x := s.slot n
    noticeBytes (if stateKind then 1 else 2) n.val x.state.code x.reason.code x.generation
      x.desc.state flags mask.toNat
  | .ring r cause head =>
    noticeBytes 3 r.val (s.ring r).state.code 0 0 .none flags (ringFaultDetail cause head)

/-- Issue a notice record's write at base + 16 × produce index (R167). -/
def State.issueNotice (s : State) (p : Report) (merged : Bool) : State :=
  { s with notices := { s.notices with
      writing := some (p,
        { address := postAddress s.notices.base s.notices.produce
          bytes := s.noticeRecord p merged, moot := false }) } }

/-- Set the dirty flag of a report's subject (R168): kinds are added and the mask combined; a ring's fault
is replaced. -/
def State.setDirty (s : State) (p : Report) : State :=
  match p with
  | .slot n stateKind changedKind mask =>
    let d := s.dirtySlot n
    s.setDirtySlot n
      { set := true, stateKind := d.stateKind || stateKind, changedKind := d.changedKind || changedKind
        mask := d.mask ||| mask }
  | .ring r cause head => s.setDirtyRing r { fault := some (cause, head) }

/-- The lowest-numbered dirty slot, else the lowest-numbered dirty ring (R169), as the report it stands
for. -/
def State.nextDirty (s : State) : Option Report :=
  match allSlots.find? fun n => (s.dirtySlot n).set with
  | some n =>
    let d := s.dirtySlot n
    some (.slot n d.stateKind d.changedKind d.mask)
  | none =>
    allRings.findSome? fun r => (s.dirtyRing r).fault.map fun f => Report.ring r f.1 f.2

/-- Clear the dirty flag of a report's subject, as its merged record's write is issued (R168). -/
def State.clearDirty (s : State) (p : Report) : State :=
  match p with
  | .slot n _ _ _ => s.setDirtySlot n SlotDirty.clear
  | .ring r _ _ => s.setDirtyRing r RingDirty.clear

/-- Issue one merged record when a flag is set and a record may be written (R169). -/
def State.drainDirty (s : State) : State :=
  if s.noticeRoom then
    match s.nextDirty with
    | none => s
    | some p => (s.clearDirty p).issueNotice p true
  else s

/-- Hand a notice to the poster (R167): written at once when a record may be written and no flag is set;
otherwise it sets its subject's dirty flag, which is drained when it can be. -/
def State.notify (s : State) (p : Report) : State :=
  if s.noticeRoom = true ∧ s.anyDirty = false then s.issueNotice p false
  else (s.setDirty p).drainDirty

/-- The SLOT_STATE notice of slot `n` (R39). -/
def State.notifyState (s : State) (n : SlotId) : State := s.notify (.slot n true false 0)

end Sys2Proof.Machine
end

