-- ==== Sys2Proof/Machine/LaneOps.lean ====
section
/-! DEFINITION. The lane arbiter's shared operations (Chapter 9): grant, end of a hold, removal of a
waiter, claim, release, disable. -/

namespace Sys2Proof.Machine

/-- Tell the sequencer of slot `n` its lane role (R11). -/
def State.setRole (s : State) (n : SlotId) (role : LaneRole) : State :=
  s.modSlot n fun x => { x with laneRole := role }

/-- Grant the lane to slot `n` for ring `r` (R154): LSEL to the slot, then LEN asserted. -/
def State.grantLane (s : State) (n : SlotId) (r : RingId) : State :=
  (s.modLane fun l => { l with
    state := .held, holder := some n, holderRing := some r, settleTimer := none, lsel := n
    len := true }).setRole n .holder

/-- End the hold of slot `n` (R158, R161): LEN deasserted with LSEL left, role NONE, and the lane FREE
when no waiter remains, else SETTLING for the settle interval in force. -/
def State.endHold (s : State) (n : SlotId) : State :=
  (s.modLane fun l =>
    if l.waiters.isEmpty then
      { l with state := .free, holder := none, holderRing := none, settleTimer := none, len := false }
    else
      { l with
        state := .settling, holder := none, holderRing := none
        settleTimer := some l.settleInterval, len := false }).setRole n .none

/-- The completion of a waiter's claim (R157), its slot `w.slot`. -/
def Waiter.completion (w : Waiter) (status : Status) (generation : Half) (detail : Nat) : Completion :=
  completionOf w.ring w.tag w.slot.val w.ringHead status generation detail

/-- Take a waiter out of the list, its timer with it; its slot's role becomes NONE. -/
def State.dropWaiter (s : State) (w : Waiter) : State :=
  (s.modLane fun l => { l with waiters := l.waiters.filter fun v => v ≠ w }).setRole w.slot .none

/-- The waiter of slot `n`, if it waits. -/
def State.waiterOf (s : State) (n : SlotId) : Option Waiter :=
  s.lane.waiters.find? fun w => w.slot = n

/-- A slot leaves READY, or loses its LANE entry (R161, R162): its hold ends with no completion, or its
wait ends with the completion given here and not yet handed over. -/
def State.laneDepart (s : State) (n : SlotId) (status : Status) : State × List Completion :=
  if s.lane.state = .held ∧ s.lane.holder = some n then (s.endHold n, [])
  else
    match s.waiterOf n with
    | some w => (s.dropWaiter w, [w.completion status (s.slot n).generation 0])
    | none => (s, [])

/-- A re-parse or REFRESH changed the lane width of slot `n` from `old` to what the record now holds
(R75, R161, R162): a lost LANE entry ends the hold or the wait; any other change leaves both. -/
def State.reportLaneWidth (s : State) (n : SlotId) (old : Option Nat) : State :=
  if old.isSome = true ∧ (s.slot n).desc.laneWidth = none then
    let d := s.laneDepart n .laneUnavailable
    d.1.handAll d.2
  else s

/-- The answer of the arbiter to a CLAIM_LANE of ring `r` (R156). The record has been taken, with
`head` recorded. -/
def State.claimLane (s : State) (r : RingId) (q : Request) (head : Nat) : State :=
  let n := q.slot
  let x := s.slot n
  let answer := fun (status : Status) (detail : Nat) =>
    completionOf r q.tag n.val head status x.generation detail
  if q.generation ≠ 0 ∧ q.generation ≠ x.generation then
    s.handOver (answer .stale q.generation.toNat)
  else if x.state ≠ .ready then s.handOver (answer .notReady 0)
  else if x.desc.laneWidth = none ∨ s.lane.state = .disabled then
    s.handOver (answer .laneUnavailable 0)
  else if s.lane.holder = some n then s.handOver (answer .alreadyHeld 0)
  else if (s.waiterOf n).isSome then s.handOver (answer .duplicate 0)
  else if s.lane.state = .free then
    (s.grantLane n r).handOver (answer .granted (x.desc.laneWidth.getD 0))
  else if q.waitLimit = 0 then s.handOver (answer .laneBusy s.lane.waiters.length)
  else
    let w : Waiter :=
      { slot := n, ring := r, tag := q.tag, generation := x.generation, ringHead := head
        limit := q.waitLimit
        timer := if q.waitLimit = 65535 then none else some q.waitLimit }
    (s.modLane fun l => { l with waiters := l.waiters ++ [w] }).setRole n .waiter

/-- The answer of the arbiter to a RELEASE_LANE of ring `r` (R158). -/
def State.releaseLane (s : State) (r : RingId) (q : Request) (head : Nat) : State :=
  let answer := fun (status : Status) (detail : Nat) =>
    completionOf r q.tag q.slot.val head status 0 detail
  if s.lane.state = .held ∧ s.lane.holder = some q.slot ∧ s.lane.holderRing = some r then
    (s.endHold q.slot).handOver (answer .success s.lane.waiters.length)
  else s.handOver (answer .notHeld 0)

/-- Clear the role of each waiter's slot. -/
def State.clearWaiterRoles (s : State) (ws : List Waiter) : State :=
  ws.foldl (fun s w => s.setRole w.slot .none) s

/-- Steps 1 to 4 of a disable (R164): the hold ends, the settle timer stops, every waiter completes
LANE_UNAVAILABLE in list order, and the lane is DISABLED with LSEL kept. -/
def State.disableLane (s : State) : State :=
  let ws := s.lane.waiters
  let s1 := match s.lane.holder with
    | some n => s.setRole n .none
    | none => s
  let s2 := (s1.clearWaiterRoles ws).modLane fun l => { l with
    state := .disabled, holder := none, holderRing := none, waiters := [], settleTimer := none
    len := false }
  s2.handAll (ws.map fun w => w.completion .laneUnavailable (s.slot w.slot).generation 0)

/-- The end of a settling (R159): the head waiter is granted, or the lane goes to FREE. -/
def State.endSettling (s : State) : State :=
  match s.lane.waiters with
  | [] => s.modLane fun l => { l with state := .free, settleTimer := none }
  | w :: rest =>
    let x := s.slot w.slot
    ((s.modLane fun l => { l with waiters := rest }).grantLane w.slot w.ring).handOver
      (w.completion .granted x.generation (x.desc.laneWidth.getD 0))

end Sys2Proof.Machine
end

