-- ==== Sys2Proof/Machine/RingOps.lean ====
section
/-! DEFINITION. The fetch arbiter's shared operations (Chapter 5): acceptance, dispatch, wait orders,
refusals, faults and the drained report. -/

namespace Sys2Proof.Machine

/-- The head after the record at the head is taken (R90, R91). -/
def RequestRing.nextHead (x : RequestRing) : Nat := nextIndex x.size x.head

/-- Take the staged record of ring `r` with this tag (R91): the head advances, the staging place becomes
empty and the tag joins the outstanding tags. -/
def State.acceptRecord (s : State) (r : RingId) (tag : Half) : State :=
  s.modRing r fun x => { x with head := x.nextHead, staging := .empty, tags := x.tags ++ [tag] }

/-- The pending-list entry of a request of ring `r` (R121). -/
def Request.entry (q : Request) (r : RingId) (head : Nat) : Entry :=
  { kind := q.kind, ring := r, tag := q.tag, generation := q.generation, address := q.address
    length := q.length, buffer := q.buffer, ringHead := head }

/-- Accept the staged record of ring `r` into the pending list of its slot, at the tail (R91). -/
def State.joinList (s : State) (r : RingId) (q : Request) : State :=
  let head := (s.ring r).nextHead
  (s.acceptRecord r q.tag).modEngine q.slot fun e =>
    { e with pendingList := e.pendingList ++ [q.entry r head] }

/-- Accept the staged record of ring `r` and complete it NOT_READY at once (R2, R92). -/
def State.refuseNotReady (s : State) (r : RingId) (q : Request) : State :=
  let head := (s.ring r).nextHead
  (s.acceptRecord r q.tag).handOver
    (completionOf r q.tag q.slot.val head .notReady (s.slot q.slot).generation 0)

/-- Offer the free places of the pending list of slot `n` to its wait order (R92). Each turn takes one
ring from the order, so fuel of its length suffices. -/
def State.offerTurns : Nat → SlotId → State → State
  | 0, _, s => s
  | fuel + 1, n, s =>
    if s.halted then s
    else
      match s.waitOrder n with
      | [] => s
      | r :: rest =>
        if (s.engine n).pendingList.length < Config.pendingPlaces then
          match (s.ring r).staging with
          | .holding q => State.offerTurns fuel n ((s.setWaitOrder n rest).joinList r q)
          | .empty | .fetching | .refused => State.offerTurns fuel n (s.setWaitOrder n rest)
        else s

/-- Offer the free places of the pending list of slot `n` to its wait order (R92). -/
def State.offerPlaces (s : State) (n : SlotId) : State :=
  State.offerTurns (s.waitOrder n).length n s

/-- Refuse the record that waits for ring `r`, if one is staged (R92). -/
def State.refuseRecord (s : State) (r : RingId) : State :=
  match (s.ring r).staging with
  | .holding q => s.refuseNotReady r q
  | .empty | .fetching | .refused => s

/-- The slot has entered EMPTY, HELD or FAULT: every waiting record is accepted and completed NOT_READY,
in wait order (R92). While the device is halted no record is accepted (R91). -/
def State.refuseWaiting (s : State) (n : SlotId) : State :=
  if s.halted then s else (s.waitOrder n).foldl State.refuseRecord (s.setWaitOrder n [])

/-- Take ring `r` out of every wait order (R92). -/
def State.leaveWaitOrders (s : State) (r : RingId) : State :=
  allSlots.foldl (fun s n => s.setWaitOrder n ((s.waitOrder n).filter fun q => q ≠ r)) s

/-- Offer the staged record of ring 0 to the control unit (R91, R102). -/
def State.offerControl (s : State) : State :=
  if s.halted then s
  else
    match s.control, (s.ring 0).staging with
    | none, .holding q =>
      let head := (s.ring 0).nextHead
      { s.acceptRecord 0 q.tag with control := some { req := q, ringHead := head } }
    | _, _ => s

/-- Offer the valid record staged for ring `r` to its destination (R91, R92). -/
def State.dispatch (s : State) (r : RingId) (q : Request) : State :=
  match q.kind with
  | .read | .write | .compare | .refresh | .lock | .unlock =>
    let n := q.slot
    if (s.slot n).state.serving then
      if (s.engine n).pendingList.length < Config.pendingPlaces ∧ s.waitOrder n = [] then
        s.joinList r q
      else s.setWaitOrder n (s.waitOrder n ++ [r])
    else s.refuseNotReady r q
  | .claimLane =>
    let head := (s.ring r).nextHead
    (s.acceptRecord r q.tag).claimLane r q head
  | .releaseLane =>
    let head := (s.ring r).nextHead
    (s.acceptRecord r q.tag).releaseLane r q head
  | .createRequestRing | .deleteRequestRing | .createCompletionRing | .deleteCompletionRing
  | .setNoticeRing | .configureSlot | .slotPower | .readSlotRecord | .abort | .laneControl =>
    s.offerControl

/-- Stage the record read for ring `r` and check it (R87, R88): a refusal is handed to the poster and
keeps the staging place until it is written (R90); a valid record is offered to its destination. -/
def State.stage (s : State) (r : RingId) (l : List Byte) : State :=
  let x := s.ring r
  match validate r x.tags l with
  | .refuse status detail =>
    (s.modRing r fun x => { x with staging := .refused }).handOver
      { completionOf r (BitVec.ofNat 16 (le16 l 2)) (byteAt l 4) x.nextHead status 0 detail with
        refused := true }
  | .valid q => (s.modRing r fun x => { x with staging := .holding q }).dispatch r q

/-- Drop the staged record of ring `r` that has not been handed over as a refusal (R97, R98): its
reservation is returned and it leaves any wait order. A fetch in progress and a refusal are left. -/
def State.dropStaged (s : State) (r : RingId) : State :=
  match (s.ring r).staging with
  | .holding _ =>
    ((s.modRing r fun x => { x with staging := .empty }).returnReservation r).leaveWaitOrders r
  | .empty | .fetching | .refused => s

/-- Ring `r` goes to FAULTED (R97), and its RING_FAULT notice is handed over. -/
def State.faultRing (s : State) (r : RingId) (cause : FaultCause) : State :=
  ((s.modRing r fun x => { x with state := .faulted }).dropStaged r).notify
    (.ring r cause (s.ring r).head)

/-- The deferred DELETE_REQUEST_RING of ring `r`, if one stands (R101). -/
def State.deferredDelete (s : State) (r : RingId) : Option (Half × Nat × Nat) :=
  s.deferred.findSome? fun d =>
    match d with
    | .deleteRing r' tag head ended => if r' = r then some (tag, head, ended) else none
    | .powerOff _ _ _ | .abort _ _ _ _ => none

/-- The deferred SLOT_POWER OFF of slot `n`, if one stands (R101). -/
def State.deferredOff (s : State) (n : SlotId) : Option (Half × Nat) :=
  s.deferred.findSome? fun d =>
    match d with
    | .powerOff n' tag head => if n' = n then some (tag, head) else none
    | .deleteRing _ _ _ _ | .abort _ _ _ _ => none

/-- The deferred ABORT of a target, if one stands (R101). -/
def State.deferredAbort (s : State) (r : RingId) (target : Half) : Option (Half × Nat) :=
  s.deferred.findSome? fun d =>
    match d with
    | .abort r' target' tag head => if r' = r ∧ target' = target then some (tag, head) else none
    | .powerOff _ _ _ | .deleteRing _ _ _ _ => none

/-- Take the deferred SLOT_POWER OFF of slot `n` out of the list. -/
def State.dropOff (s : State) (n : SlotId) : State :=
  { s with deferred := s.deferred.filter fun d =>
      match d with
      | .powerOff n' _ _ => n' ≠ n
      | .deleteRing _ _ _ _ | .abort _ _ _ _ => true }

/-- Take the deferred DELETE_REQUEST_RING of ring `r` out of the list. -/
def State.dropDelete (s : State) (r : RingId) : State :=
  { s with deferred := s.deferred.filter fun d =>
      match d with
      | .deleteRing r' _ _ _ => r' ≠ r
      | .powerOff _ _ _ | .abort _ _ _ _ => true }

/-- Take the deferred ABORT of a target out of the list. -/
def State.dropAbort (s : State) (r : RingId) (target : Half) : State :=
  { s with deferred := s.deferred.filter fun d =>
      match d with
      | .abort r' target' _ _ => !(r' = r ∧ target' = target)
      | .powerOff _ _ _ | .deleteRing _ _ _ _ => true }

/-- Ring `r` is drained (R98, R107): DRAINING, no outstanding tag, no refusal awaiting writing and no fetch
in progress. While the device is halted no report is made (R120). -/
def State.isDrained (s : State) (r : RingId) : Bool :=
  let x := s.ring r
  !s.halted && x.state == .draining && x.tags.isEmpty && x.staging == .empty

/-- The drained report of ring `r` (R107): the ring enters ABSENT and the DELETE leaves the deferred list;
its SUCCESS is given here and not yet handed over. -/
def State.reportDrained (s : State) (r : RingId) : State × List Completion :=
  if s.isDrained r then
    match s.deferredDelete r with
    | some (tag, head, ended) =>
      ((s.dropDelete r).setRing r RequestRing.absent,
        [completionOf 0 tag 0 head .success 0 ended])
    | none => (s, [])
  else (s, [])

/-- Make the drained report of ring `r` when it is due, and hand over the DELETE's completion. -/
def State.checkDrained (s : State) (r : RingId) : State :=
  let d := s.reportDrained r
  d.1.handAll d.2

end Sys2Proof.Machine
end

