-- ==== Sys2Proof/Machine/BusOps.lean ====
section
/-! DEFINITION. The slot bus engine's shared operations (Chapter 3): opening transactions, completed
transfers, pieces, the ranges of reads. -/

namespace Sys2Proof.Machine

/-- Open a transaction on slot `n` (R42, R43): the START reads bus_speed, and a new clock wait counts from
0. The values written stay when a stuck episode forestalls the START (log entry 35). -/
def State.openTransaction (s : State) (n : SlotId) (p : BusPhase) (block : Nat) (attempt : Nat)
    (frame : List Byte) : State :=
  s.modEngine n fun e => { e.enter p with
    attempt := attempt, block := block, speed := (s.slot n).config.speed, stuckCounter := 0
    frame := frame }

/-- Open the addressed read that starts at an address (R47). -/
def State.openRead (s : State) (n : SlotId) (address attempt : Nat) : State :=
  s.openTransaction n .addressing (blockOf address) attempt (readFrame address)

/-- Open the write transaction of a piece of a WRITE that starts at `base` (R50): the piece becomes the
current piece, and its bytes come from the data buffer at the positions of its addresses (R127). -/
def State.openPiece (s : State) (n : SlotId) (base : Nat) (p : Piece) (attempt : Nat) : State :=
  let data := Buffer.readAll (s.engine n).buffer (p.start - base) p.length
  (s.openTransaction n .addressing (blockOf p.start) attempt (writeFrame p.start data)).modEngine n
    fun e => { e with piece := some p }

/-- Open the poll of the current piece (R51). The attempt count belongs to addressed accesses and stays. -/
def State.openPoll (s : State) (n : SlotId) (p : Piece) : State :=
  s.openTransaction n .polling (blockOf p.start) (s.engine n).attempt (pollFrame p.start)

/-- A completed transfer (R46): the engine reports it and the sequencer sets the stuck count to 0 (R10).
Both lines have read high. -/
def State.completedTransfer (s : State) (n : SlotId) : State :=
  (s.modSlot n fun x => { x with stuck := 0 }).modEngine n fun e =>
    { e with sclHeld := false, sdaHeld := false }

/-- The sequencer raises the consecutive stuck count by one (R10); its values are 0 to 2. -/
def State.raiseStuck (s : State) (n : SlotId) : State :=
  s.modSlot n fun x => { x with stuck := min 2 (x.stuck + 1) }

/-- The engine enters a waiting phase of the current access. -/
def State.enterPhase (s : State) (n : SlotId) (p : BusPhase) : State :=
  s.modEngine n fun e => e.enter p

/-- The bytes of the addressed read that starts at `next` in a range that ends before `stop` (R47). -/
def readCount (next stop : Nat) : Nat :=
  min (stop - next) (Config.blockBytes - next % Config.blockBytes)

/-- The piece of a WRITE that starts at `next` in a range that ends before `stop` (R49). -/
def pieceAt (page next stop : Nat) : Piece :=
  { start := next, length := min (stop - next) (page - next % page) }

/-- The first address after the range of an entry. -/
def Entry.stop (e : Entry) : Nat := e.address + e.length

/-- The request of an engine that stands between a confirmed piece and the START of the next (R30, R51, R57):
the bus is IDLE, no piece is current, and part of the range is not yet written. -/
def Engine.betweenPieces (e : Engine) : Option Execution :=
  match e.exec with
  | some x =>
    if x.stage = .pieces ∧ e.phase = .idle ∧ e.piece = none ∧ x.next < x.entry.stop then some x else none
  | none => none

/-- The START of the next piece of a WRITE that stands between its pieces (R51, log entry 37). Under the abort
mark nothing more is sent (R57). -/
def State.startPiece (s : State) (n : SlotId) : State :=
  match (s.engine n).betweenPieces with
  | some x =>
    if x.abortMark then s
    else s.openPiece n x.entry.address (pieceAt x.seen.pageSize x.next x.entry.stop) 1
  | none => s

/-- How many received bytes equal their counterparts before the first that differs. -/
def matching : List Byte → List Byte → Nat
  | a :: as, b :: bs => if a = b then matching as bs + 1 else 0
  | _, _ => 0

/-- Where a descriptor read begins its present bus read (R56). -/
def DescRead.address : DescRead → Nat
  | .header => 0
  | .extension _ => 32

/-- How many bytes its present bus read has (R56). -/
def DescRead.count : DescRead → Nat
  | .header => 32
  | .extension h => h.extLength

/-- Where the data bytes of the read transaction of an engine go in the data buffer, and how many may come
(R47). Those of a COMPARE are not stored (R130). -/
def Engine.readFill (e : Engine) : Option (Nat × Nat) :=
  match e.descRead, e.exec with
  | some d, _ => some (0, d.count)
  | none, some x =>
    if x.stage = .busRead ∧ x.entry.kind ≠ .compare then
      some (x.next - x.entry.address, readCount x.next x.entry.stop)
    else none
  | none, none => none

/-- Place received bytes in the data buffer of slot `n` from a position up (R47). -/
def State.fillBuffer (s : State) (n : SlotId) (pos : Nat) (bytes : List Byte) : State :=
  s.modEngine n fun e => { e with buffer := Buffer.writeAll e.buffer pos bytes }

/-- The bytes that open the transaction on the bus of an engine have gone (R40, R45): the data bytes of a
piece are then being sent, or the module is sending read data. -/
def Engine.tick (e : Engine) : Engine :=
  if e.phase = .addressing then { e with phase := if e.piece.isSome then .sending else .receiving } else e

/-- The first data bytes of the open read transaction of slot `n`, as many as have come, arrive and the
transaction goes on (R47, log entry 38): each takes its place in the data buffer where the read stores bytes at
all. -/
def State.receiveBytes (s : State) (n : SlotId) (bytes : List Byte) :
    Host.Outcome State Fault Refusal :=
  if bytes = [] then .next s
  else
    match (s.engine n).readFill with
    | some (pos, _) =>
      if Config.rawCapacity < pos + bytes.length then .fault .dataBufferRange
      else .next ((s.fillBuffer n pos bytes).modEngine n Engine.tick)
    | none => .next (s.modEngine n Engine.tick)

/-- Begin a descriptor read on slot `n` (R56). An abandoned host transfer still in flight holds its first
transfer back (R138). -/
def State.startDescRead (s : State) (n : SlotId) : State :=
  let s1 := s.modEngine n fun e => { e with descRead := some .header }
  if (s.engine n).hostTransfer.isSome then s1 else s1.openRead n 0 1

/-- What happens on the bus of slot `n` with no command waiting (log entry 2): the START of a WRITE's next piece
is made, or an open addressed access goes on to its data bytes. -/
def State.tickSlot (s : State) (n : SlotId) : State :=
  match (s.engine n).betweenPieces with
  | some _ => s.startPiece n
  | none => s.modEngine n Engine.tick

/-- What happens with no command waiting (log entry 2). -/
def State.tick (s : State) : State := allSlots.foldl State.tickSlot s

end Sys2Proof.Machine
end

