-- ==== Sys2Proof/Machine/SlotOps.lean ====
section
/-! DEFINITION. The slot sequencer's shared operations (Chapter 2): insertion, the probe, powering,
READING and READY, the exits of a slot and what they complete, SLOT_POWER. -/

namespace Sys2Proof.Machine

/-! ### Approach -/

/-- The probe timer starts with the low phase of a first pass (R21, R22). -/
def Probe.start (repeatAttempt : Bool) : Probe :=
  { repeatAttempt := repeatAttempt, secondPass := false, highPhase := false, lowA := false
    lowB := false, firstPair := none }

/-- Stop every timer of a slot and leave the probe contact high (R17, R21). -/
def Slot.quiet (x : Slot) : Slot :=
  { x with settleTimer := none, probe := none, pgTimer := none, wakeTimer := none, prb := true }

/-- Enter SETTLING with the settle_interval in force (R18). -/
def Slot.enterSettling (x : Slot) : Slot :=
  { x.quiet with state := .settling, reason := .none, settleTimer := some (10 * x.config.settleSteps) }

/-- Enter PROBING and start the first probe pass (R20, R21, R35, R15): supply off, stuck count 0, PRBn
driven low. -/
def Slot.enterProbing (x : Slot) (origin : Origin) : Slot :=
  { x.quiet with
    state := .probing, reason := .none, stuck := 0, origin := origin, pwren := false
    probe := some (Probe.start false), prb := false }

/-- Enter POWERING (R24): PWRSELn, PWRENn, PG-seen mark clear, PG timer from pg_limit. PGn found asserted
counts as PG seen, and the wake interval starts at once (R25). -/
def Slot.enterPowering (x : Slot) : Slot :=
  { x.quiet with
    state := .powering, reason := .none, pwrsel := x.supplyClass.pwrsel, pwren := true
    pgSeen := x.pg
    pgTimer := if x.pg then none else some x.config.pgLimit
    wakeTimer := if x.pg then some Config.wakeMs else none }

/-- The supply class of an agreed sense code; none for a reserved combination (R23). -/
def classOf (p : SensePair) : Option SupplyClass :=
  match p.a, p.b with
  | .open, .open => some .none
  | .ground, .open => some .s33
  | .open, .ground => some .s50
  | .ground, .ground => some .s120
  | .linked, .open => some .s33s120
  | .open, .linked | .ground, .linked | .linked, .ground | .linked, .linked => none

/-- The reading of one line from its two samples; none when unresolved (R21). -/
def readingOf (low high : Bool) : Option Reading :=
  match low, high with
  | false, true => some .linked
  | false, false => some .ground
  | true, true => some .open
  | true, false => none

/-- The pair a pass yields (R21). -/
def pairOf (p : Probe) (highA highB : Bool) : Option SensePair :=
  match readingOf p.lowA highA, readingOf p.lowB highB with
  | some a, some b => some { a := a, b := b }
  | _, _ => none

/-- Write the sense code and the supply class at the end of a probe (R5). PWRSELn follows the class. -/
def Slot.writeSense (x : Slot) (agreed : Option SensePair) : Slot :=
  let c := ((agreed.bind classOf).getD .none)
  { x with sense := agreed, supplyClass := c, pwrsel := c.pwrsel }

/-- Where a probe's end takes the slot (R23): HELD with a reason, or POWERING. The slot holds the class
just written; `agreed` is the sense code. -/
def Slot.probeVerdict (x : Slot) (agreed : Option SensePair) : Option Reason :=
  match agreed with
  | none => some .badSense
  | some p =>
    match classOf p with
    | none => some .badSense
    | some .none => some .noSense
    | some c =>
      if x.config.supply.allows c = false then some .classBlocked
      else if x.origin = .auto ∧ x.config.autoPower = false then some .manualOff
      else none

/-! ### Exits -/

/-- The completion of a deferred SLOT_POWER OFF of slot `n`, if one stands (R37, R38, R112): the slot's
generation and state as they are now. -/
def State.offCompletion (s : State) (n : SlotId) (status : Status) : List Completion :=
  match s.deferredOff n with
  | some (tag, head) =>
    [completionOf 0 tag n.val head status (s.slot n).generation (s.slot n).state.code]
  | none => []

/-- The deferred SLOT_POWER OFF of slot `n` leaves the list with its completion. While the device is halted
nothing is completed and the list keeps its entries (R120). -/
def State.settleOff (s : State) (n : SlotId) : State := if s.halted then s else s.dropOff n

/-- The completions of the held-over and waiting entries of slot `n`, each list in its order (R34, R123). -/
def State.listCompletions (s : State) (n : SlotId) (heldStatus waitStatus : Status) :
    List Completion :=
  let g := (s.slot n).generation
  (s.engine n).heldOver.map (fun e => e.ended n g heldStatus)
    ++ (s.engine n).pendingList.map fun e => e.ended n g waitStatus

/-- Empty both lists of the engine of slot `n`. -/
def State.clearLists (s : State) (n : SlotId) : State :=
  s.modEngine n fun e => { e with pendingList := [], heldOver := [] }

/-- Leave PROBING for HELD, or SETTLING for EMPTY: no supply, no request in execution. The waiting entries
complete with `status`, then the records of the wait order NOT_READY (R34, R92). -/
def State.endWaiting (s : State) (n : SlotId) (status : Status) : State :=
  ((s.clearLists n).handAll (s.listCompletions n status status)).refuseWaiting n

/-- The slot values of a rest state with its reason (R28). -/
def Slot.rest (x : Slot) (st : SlotState) (why : Reason) : Slot :=
  { x.quiet with state := st, reason := why, pwren := false, resetDue := none }

/-- The slot values of EMPTY after a removal (R29). -/
def Slot.emptied (x : Slot) : Slot :=
  { x.quiet with
    state := .empty, reason := .none, pwren := false, pwrsel := 0, sense := none
    supplyClass := .none, desc := Desc.raw .none, stuck := 0, laneRole := .none, resetDue := none }

/-- Cut the bus of slot `n` (R59) and drop its work: no request in execution, no descriptor read, and a
host transfer in flight abandoned (R138). A cut of the ending that a function reset left takes the bus to its
reset values (R40, R180). -/
def State.cutEngine (s : State) (n : SlotId) : State :=
  s.modEngine n fun e => { (if s.condition = .resetting ∧ e.closing = true then e.busReset else e).cut with
    exec := none, descRead := none
    hostTransfer := e.hostTransfer.map fun h => { h with abandoned := true } }

/-- The completion of the request in execution of slot `n` at a removal or power loss (R30, R31, R138),
with the slot's generation. A WRITE between its pieces has no current piece; one in RETRY_WAIT has none being
sent or polled (log entry 28); one in RECOVERY stands where the episode met it (log entry 33). -/
def State.cutCompletion (s : State) (n : SlotId) (status : Status) : List Completion :=
  let e := s.engine n
  match e.exec with
  | none => []
  | some x =>
    let base := completionOf x.entry.ring x.entry.tag n.val x.entry.ringHead status
      (s.slot n).generation 0
    match x.stage with
    | .pieces =>
      match e.piece with
      | some p =>
        if e.phase = .retryWait then [{ base with bytesDone := x.bytesDone }]
        else [{ base with bytesDone := x.bytesDone, detail := p.start, pageUncertain := true }]
      | none => [{ base with bytesDone := x.bytesDone }]
    | .reparse _ => [{ base with bytesDone := x.bytesDone, reparseFailed := true }]
    | .hostRead | .busRead | .hostWrite | .refreshing => [base]

/-- The sequencer writes a verdict over the descriptor fields of slot `n` (R75): all of them in one step, then
the DESCRIPTOR_CHANGED notice when an item changed (R76). -/
def State.writeVerdict (s : State) (n : SlotId) (d : Desc) : State :=
  let mask := changeMask (s.slot n).desc d
  let s1 := s.modSlot n fun x => { x with desc := d }
  if mask = 0 then s1 else s1.notify (.slot n false true mask)

/-- A re-read of the descriptor is in progress: a WRITE's re-parse or a REFRESH (R79). -/
def Stage.rereads : Stage → Bool
  | .reparse _ | .refreshing => true
  | .hostRead | .busRead | .hostWrite | .pieces => false

/-- A re-parse or REFRESH is cut off at a removal or power loss: its re-read is treated as failed on the bus, so
the ABSENT verdict is written with its notice (R77, R79, log entry 15). The exit then clears or keeps it (R78). -/
def State.cutVerdict (s : State) (n : SlotId) : State :=
  match (s.engine n).exec with
  | some x => if x.stage.rereads then s.writeVerdict n (Desc.raw .absent) else s
  | none => s

/-- The removal of a module (R29), from an inserted state: the completions of the slot and of its lane
wait are unordered among each other (R162), and the records of the wait order follow them (R140). -/
def State.removeModule (s : State) (n : SlotId) : State :=
  let own := s.cutCompletion n .removed
  let lists := s.listCompletions n .removed .removed
  let s1 := (s.cutEngine n).clearLists n
  let lane := s1.laneDepart n .removed
  let s2 := lane.1.modSlot n Slot.emptied
  let s3 := { s2 with locks := s2.locks.filter fun l => l.slot ≠ n }
  let off := s3.offCompletion n .removed
  (((s3.notifyState n).settleOff n).handMerged [lane.2, own ++ lists ++ off]).refuseWaiting n

/-- The removal of a module (R29, R30), after the verdict of a re-parse or REFRESH that it cuts (R77, R79). -/
def State.remove (s : State) (n : SlotId) : State := (s.cutVerdict n).removeModule n

/-- A powered slot fails: FAULT with its reason. `own` are completions of the request in execution that
come with the exit. Held-over entries complete POWERED_OFF, waiting entries POWER_FAULT, a deferred
SLOT_POWER OFF SUCCESS (R31, R33, R34, R38, R123). -/
def State.faultSlot (s : State) (n : SlotId) (why : Reason) (own : List Completion) : State :=
  let lists := s.listCompletions n .poweredOff .powerFault
  let s1 := s.clearLists n
  let lane := s1.laneDepart n .powerFault
  let s2 := lane.1.modSlot n fun x => x.rest .fault why
  let off := s2.offCompletion n .success
  (((s2.notifyState n).settleOff n).handMerged [lane.2, own ++ lists ++ off]).refuseWaiting n

/-- PGn is lost in POWERING, READING or READY (R25, R26, R31). -/
def State.losePower (s : State) (n : SlotId) : State :=
  let own := s.cutCompletion n .powerFault
  ((s.cutVerdict n).cutEngine n).faultSlot n .powerLost own

/-- The exit of a deferred SLOT_POWER OFF (R37): the lane role ends first, then PWRENn, then HELD with its
notice, then the completions in order, `own` being the request in execution's own. -/
def State.exitOff (s : State) (n : SlotId) (own : List Completion) : State :=
  let lists := s.listCompletions n .poweredOff .poweredOff
  let lane := (s.clearLists n).laneDepart n .poweredOff
  let s1 := (lane.1.handAll lane.2).modSlot n fun x => x.rest .held .manualOff
  let off := s1.offCompletion n .success
  (((s1.notifyState n).settleOff n).handAll (own ++ lists ++ off)).refuseWaiting n

/-- The request in execution of slot `n` has ended with this completion (R124): the engine idles and the
completion is handed over, or it comes with the exit of a deferred SLOT_POWER OFF (R37). -/
def State.finish (s : State) (n : SlotId) (c : Completion) : State :=
  let s1 := s.modEngine n fun e => { e.idled with exec := none, descRead := none }
  if (s1.deferredOff n).isSome then s1.exitOff n [c] else s1.handOver c

/-- End a SLOT_POWER OFF that finds the slot in PROBING, POWERING or READING (R36): supply off, the read
cut, HELD(MANUAL_OFF), waiting entries POWERED_OFF. -/
def State.powerOffNow (s : State) (n : SlotId) : State :=
  let s1 := if (s.slot n).state = .reading then s.cutEngine n else s
  ((s1.modSlot n fun x => x.rest .held .manualOff).notifyState n).endWaiting n .poweredOff

end Sys2Proof.Machine
end

