-- ==== Sys2Proof/Machine/EngineOps.lean ====
section
/-! DEFINITION. The execution of descriptor memory requests on one engine (Chapters 3, 4, 7 and 8): the
start and its checks, reads, pieces, descriptor reads and verdicts, recovery, the abort mark, the ending
after a reset or halt. -/

namespace Sys2Proof.Machine

/-! ### Results -/

/-- The completion of the request in execution `x` of slot `n`, with the generation read at its start
(R93): bytes_done 0 and no flags. -/
def Execution.result (x : Execution) (n : SlotId) (status : Status) (detail : Nat) : Completion :=
  completionOf x.entry.ring x.entry.tag n.val x.entry.ringHead status x.seen.generation detail

/-- A WRITE's completion with bytes_done of the confirmed pieces (R52). -/
def Execution.written (x : Execution) (n : SlotId) (status : Status) (detail : Nat)
    (uncertain reparseFailed : Bool) : Completion :=
  { x.result n status detail with
    bytesDone := x.bytesDone, pageUncertain := uncertain, reparseFailed := reparseFailed }

/-- Change the request in execution of slot `n`. -/
def State.setExec (s : State) (n : SlotId) (x : Execution) : State :=
  s.modEngine n fun e => { e with exec := some x }

/-! ### Start (R124) and checks (R125, R143, R146) -/

/-- The engine of slot `n` may start the entry at the head of its list (R124). -/
def State.mayStart (s : State) (n : SlotId) : Bool :=
  let e := s.engine n
  (s.slot n).state == .ready && (s.deferredOff n).isNone && e.exec.isNone && e.phase == .idle
    && !e.closing && e.hostTransfer.isNone && !s.halted

/-- The slot record values read together at a start (R124, R16). -/
def Slot.seen (x : Slot) : Seen :=
  { state := x.state, generation := x.generation, capacity := x.desc.capacity
    pageSize := x.desc.pageSize, descState := x.desc.state, closed := x.desc.closed
    protectEnd := x.desc.protectEnd, span := x.desc.span, prot := x.prot }

/-- The head entry of slot `n` leaves the list and becomes the request in execution at this stage; its
freed place is offered to the wait order (R124). -/
def State.begin (s : State) (n : SlotId) (e : Entry) (rest : List Entry) (stage : Stage) : State :=
  (s.modEngine n fun g => { g with
    pendingList := rest
    exec := some
      { entry := e, seen := (s.slot n).seen, stage := stage, next := e.address, bytesDone := 0
        abortMark := false } }).offerPlaces n

/-- The generation check fails (R125, check 1). -/
def staleFor (e : Entry) (g : Half) : Bool := decide (e.generation ≠ 0 ∧ e.generation ≠ g)

/-- Two ranges share an address (R142). -/
def rangesOverlap (a lenA b lenB : Nat) : Bool := decide (a < b + lenB ∧ b < a + lenA)

/-- The lock entries of slot `n` whose range overlaps a range (R142). -/
def State.overlapping (s : State) (n : SlotId) (start length : Nat) : List LockEntry :=
  s.locks.filter fun l => l.slot = n && rangesOverlap start length l.start l.length

/-- The start of the lowest-starting entry of a list; none of an empty list. -/
def lowestStart : List LockEntry → Option Nat
  | [] => none
  | l :: ls =>
    match lowestStart ls with
    | none => some l.start
    | some a => some (min l.start a)

/-- Protection refuses a WRITE that starts at an address (R70, R72). -/
def Seen.protects (v : Seen) (address : Nat) : Option Nat :=
  match v.protectEnd with
  | some p =>
    if v.descState = .valid ∧ v.closed = true ∧ v.prot = true ∧ address < p then some p else none
  | none => none

/-- The check that fails for READ, COMPARE and WRITE, with its status and detail (R125). -/
def State.rangeChecks (s : State) (n : SlotId) (x : Execution) : Option (Status × Nat) :=
  let e := x.entry
  if staleFor e x.seen.generation then some (.stale, e.generation.toNat)
  else if x.seen.capacity < e.stop then some (.outOfRange, e.stop)
  else if e.kind = .write then
    match lowestStart ((s.overlapping n e.address e.length).filter fun l => l.owner ≠ e.ring) with
    | some a => some (.locked, a)
    | none =>
      match x.seen.protects e.address with
      | some p => some (.protectedArea, p)
      | none => none
  else none

/-- The outcome of a LOCK on the table (R143, R144): status, detail and the table after it. -/
def State.lockOutcome (s : State) (n : SlotId) (x : Execution) : Status × Nat × List LockEntry :=
  let e := x.entry
  let found := s.overlapping n e.address e.length
  if staleFor e x.seen.generation then (.stale, e.generation.toNat, s.locks)
  else if x.seen.capacity < e.stop then (.outOfRange, e.stop, s.locks)
  else
    match lowestStart (found.filter fun l => l.owner ≠ e.ring) with
    | some a => (.conflict, a, s.locks)
    | none =>
      match lowestStart found with
      | some a => (.overlap, a, s.locks)
      | none =>
        if Config.lockPlaces ≤ s.locks.length then (.tableFull, Config.lockPlaces, s.locks)
        else
          (.success, s.locks.length + 1,
            s.locks ++ [{ slot := n, start := e.address, length := e.length, owner := e.ring }])

/-- The outcome of an UNLOCK on the table (R146): the match is exact in all four fields. -/
def State.unlockOutcome (s : State) (n : SlotId) (x : Execution) : Status × Nat × List LockEntry :=
  let e := x.entry
  let entry : LockEntry :=
    { slot := n, start := e.address, length := e.length, owner := e.ring }
  if staleFor e x.seen.generation then (.stale, e.generation.toNat, s.locks)
  else if entry ∈ s.locks then (.success, (s.locks.erase entry).length, s.locks.erase entry)
  else (.notHeld, 0, s.locks)

/-- Carry out a LOCK or UNLOCK in execution with its outcome, and complete it in the same event (R143). -/
def State.finishLock (s : State) (n : SlotId) (x : Execution) (o : Status × Nat × List LockEntry) :
    State :=
  { s with locks := o.2.2 }.finish n (x.result n o.1 o.2.1)

/-- Have the host link read the host buffer of a WRITE or COMPARE in execution (R127). -/
def State.startHostRead (s : State) (n : SlotId) (e : Entry) : State :=
  s.modEngine n fun g => { g with
    hostTransfer := some
      { toHost := false, address := e.buffer, length := e.length, data := [], abandoned := false } }

/-- Have the host link write the data of a READ whose bus work has ended (R128). -/
def State.startHostWrite (s : State) (n : SlotId) (x : Execution) : State :=
  (s.modEngine n fun g => { g.idled with
    hostTransfer := some
      { toHost := true, address := x.entry.buffer, length := x.entry.length
        data := Buffer.readAll g.buffer 0 x.entry.length, abandoned := false } }).setExec n
    { x with stage := .hostWrite }

/-! ### Descriptor verdicts (R69, R75 to R78) -/

/-- The verdict of a re-parse or REFRESH (R75): the fields with their notice, then the lane report. -/
def State.applyVerdict (s : State) (n : SlotId) (d : Desc) : State :=
  (s.writeVerdict n d).reportLaneWidth n (s.slot n).desc.laneWidth

/-- READING ends with a verdict (R26): the fields are written, the slot is READY, and its notice is handed
over. -/
def State.becomeReady (s : State) (n : SlotId) (d : Desc) : State :=
  ((s.modEngine n fun e => { e.idled with descRead := none }).modSlot n fun x =>
    { x with desc := d, state := .ready, reason := .none }).notifyState n

/-- A descriptor read of slot `n` reached a verdict (R56): READING ends, or the request in execution, a WRITE
in its re-parse (R75, R133) or a REFRESH (R78), completes. -/
def State.descVerdict (s : State) (n : SlotId) (d : Desc) : State :=
  match (s.engine n).exec with
  | none => s.becomeReady n d
  | some x =>
    match x.stage with
    | .reparse final => (s.applyVerdict n d).finish n (x.written n final 0 false false)
    | .refreshing => (s.applyVerdict n d).finish n (x.result n .success d.state.detail)
    | .hostRead | .busRead | .hostWrite | .pieces => s

/-- The completion of a re-parse or REFRESH that failed on the bus with `status` (R77, R78). -/
def Execution.failedRead (x : Execution) (n : SlotId) (status : Status) : Completion :=
  match x.stage with
  | .reparse final => x.written n final 0 false true
  | .refreshing | .hostRead | .busRead | .hostWrite | .pieces =>
    x.result n status DescState.absent.detail

/-- A descriptor read was given up after three attempts (R48, R56): the ABSENT verdict. -/
def State.descGivenUp (s : State) (n : SlotId) : State :=
  match (s.engine n).exec with
  | none => s.becomeReady n (Desc.raw .absent)
  | some x =>
    (s.applyVerdict n (Desc.raw .absent)).finish n (x.failedRead n .noResponse)

/-- The bytes of the present read of a descriptor read have arrived (R56, R60, R64, R68). -/
def State.descBytes (s : State) (n : SlotId) (d : DescRead) (bytes : List Byte) : State :=
  match d with
  | .header =>
    match parseHeader bytes with
    | .inl why => s.descVerdict n (Desc.raw (.invalid why))
    | .inr h =>
      if h.extLength = 0 then s.descVerdict n (validDesc h ExtFields.start)
      else (s.modEngine n fun e => { e with descRead := some (.extension h) }).openRead n 32 1
  | .extension h => s.descVerdict n (parseExtension h bytes)

/-! ### WRITE (R132 to R134) -/

/-- A WRITE's bus work has ended with `status` and clean pieces: its re-parse begins when R74 requires one,
else it completes. -/
def State.endPieces (s : State) (n : SlotId) (x : Execution) (status : Status) : State :=
  if 0 < x.bytesDone ∧ x.entry.address < x.seen.span then
    ((s.modEngine n fun e => e.idled).setExec n { x with stage := .reparse status }).startDescRead n
  else s.finish n (x.written n status 0 false false)

/-- A WRITE ends with no re-parse (R74). -/
def State.failPieces (s : State) (n : SlotId) (x : Execution) (status : Status)
    (uncertain : Option Nat) : State :=
  s.finish n (x.written n status (uncertain.getD 0) uncertain.isSome false)

/-- The engine ends the request in execution under the abort mark, its bus closed (R57, R137). -/
def State.endMarked (s : State) (n : SlotId) (x : Execution) : State :=
  match x.stage with
  | .pieces => s.endPieces n x .aborted
  | .hostRead | .busRead | .hostWrite | .reparse _ | .refreshing => s.finish n (x.result n .aborted 0)

/-- After the checks of a READ, COMPARE or WRITE (R124): the refusal, or the first bus transaction. -/
def State.afterChecks (s : State) (n : SlotId) (x : Execution) : State :=
  match s.rangeChecks n x with
  | some (status, detail) => s.finish n (x.result n status detail)
  | none =>
    if x.entry.kind = .write then
      (s.setExec n { x with stage := .pieces }).openPiece n x.entry.address
        (pieceAt x.seen.pageSize x.entry.address x.entry.stop) 1
    else (s.setExec n { x with stage := .busRead }).openRead n x.entry.address 1

/-! ### Unanswered accesses (R48) -/

/-- The access on the bus has been refused three times and is given up (R48). -/
def State.giveUp (s : State) (n : SlotId) : State :=
  let e := s.engine n
  match e.descRead, e.exec with
  | some _, _ => s.descGivenUp n
  | none, some x =>
    match x.stage with
    | .pieces => s.failPieces n x .noResponse none
    | .hostRead | .busRead | .hostWrite | .reparse _ | .refreshing =>
      s.finish n (x.result n .noResponse 0)
  | none, none => s

/-- An addressed access was refused, and the part has sent STOP (R48): RETRY_WAIT, or the access is given
up. Under the abort mark no further attempt is opened (R57). -/
def State.unanswered (s : State) (n : SlotId) : State :=
  let e := s.engine n
  match e.descRead, e.exec with
  | none, some x =>
    if x.abortMark then s.endMarked n x
    else if e.attempt < Config.maxAttempts then s.enterPhase n .retryWait
    else s.giveUp n
  | _, _ => if e.attempt < Config.maxAttempts then s.enterPhase n .retryWait else s.giveUp n

/-- Open the same access again as the next attempt (R48). -/
def State.reopen (s : State) (n : SlotId) : State :=
  let e := s.engine n
  match e.descRead, e.exec with
  | some d, _ => s.openRead n d.address (e.attempt + 1)
  | none, some x =>
    match x.stage, e.piece with
    | .pieces, some p => s.openPiece n x.entry.address p (e.attempt + 1)
    | .busRead, _ => s.openRead n x.next (e.attempt + 1)
    | _, _ => s
  | none, none => s

/-! ### Ending after a reset or halt (R58) -/

/-- The action of a function reset on slot `n` once its engine has ended (R15, R58). -/
def State.resetAction (s : State) (n : SlotId) (retain : Bool) : State :=
  match (s.slot n).state with
  | .powering | .ready =>
    if retain then s else (s.modSlot n fun x => x.enterProbing .auto).notifyState n
  | .reading =>
    if retain then s.startDescRead n
    else (s.modSlot n fun x => x.enterProbing .auto).notifyState n
  | .empty | .settling | .probing | .held | .fault => s

/-- The bus of an engine at the end of its work: at a function reset it takes its reset values (R40). -/
def State.restBus (s : State) (e : Engine) : Engine :=
  if s.condition = .resetting then e.busReset else e.idled

/-- The engine of slot `n` reports the end of its bus work after a reset or halt (R58): the bus takes its
reset values at a function reset (R40); the sequencer then acts on the slot (R15), or carries out a deferred
SLOT_POWER OFF of a halted device (R37). -/
def State.engineReport (s : State) (n : SlotId) : State :=
  let s1 := s.modEngine n fun e => (s.restBus e).workless
  match (s.slot n).resetDue with
  | some retain =>
    (s1.modSlot n fun x => { x with resetDue := none }).resetAction n retain
  | none =>
    if s.halted = true ∧ (s.deferredOff n).isSome = true ∧ (s.slot n).state = .ready then
      s1.exitOff n []
    else s1

/-- A reset or halt ends the request in execution or descriptor read of slot `n` with no completion (R139):
a host transfer is abandoned, and the bus work ends by R58, at once where nothing is on the bus. A read being
closed goes on filling the data buffer (R47), also where a function reset meets the closing that a halt began. -/
def State.discardWork (s : State) (n : SlotId) : State :=
  let e := s.engine n
  let s1 := s.modEngine n fun e => { e with
    exec := none, descRead := none
    hostTransfer := e.hostTransfer.map fun h => { h with abandoned := true } }
  if e.phase = .idle ∨ e.phase = .retryWait then s1.engineReport n
  else s1.modEngine n fun g => { g with
    closing := true, closeFill := if e.closing then e.closeFill else e.readFill }

/-! ### Recovery (R55) -/

/-- A stuck episode takes the slot to FAULT with no request in execution: it ended the descriptor read of a
READING slot (R26, R55), or it met the ending that a reset or halt left on the bus (R58). -/
def State.stuckFault (s : State) (n : SlotId) : State :=
  (s.modEngine n fun e => (s.restBus e).workless).faultSlot n .busStuck []

/-- The work that met a stuck episode has ended with this completion, and the stuck count has risen (R55):
at 2 the completion is handed over and the slot goes to FAULT (R33); at 1 the request has ended. -/
def State.finishStuck (s : State) (n : SlotId) (c : Completion) : State :=
  if (s.slot n).stuck = 2 then
    (((s.modEngine n fun e => { e.idled with exec := none, descRead := none }).handOver c).faultSlot n
      .busStuck [])
  else s.finish n c

/-- The recovery of slot `n` has ended (R55). -/
def State.endRecovery (s : State) (n : SlotId) : State :=
  let s1 := s.raiseStuck n
  let e := s.engine n
  if e.closing then
    if (s.slot n).state = .reading ∨ ((s.slot n).state = .ready ∧ (s1.slot n).stuck = 2) then
      s1.stuckFault n
    else s1.engineReport n
  else
    match e.exec with
    | none => if e.descRead.isSome then s1.stuckFault n else s1.enterPhase n .idle
    | some x =>
      match x.stage with
      | .reparse _ | .refreshing =>
        (s1.applyVerdict n (Desc.raw .absent)).finishStuck n (x.failedRead n .busStuck)
      | .pieces =>
        match e.piece with
        | some p => s1.finishStuck n (x.written n .busStuck p.start true false)
        | none => s1.finishStuck n (x.written n .busStuck 0 false false)
      | .hostRead | .busRead | .hostWrite => s1.finishStuck n (x.result n .busStuck 0)

end Sys2Proof.Machine
end

