-- ==== Sys2Proof/Machine/DeviceOps.lean ====
section
/-! DEFINITION. The device as a whole (Chapter 11): halt (R179), function reset (R180), link and power-on
reset (R181), start-up (R178), the register writes. -/

namespace Sys2Proof.Machine

/-! ### Halt -/

/-- The device enters HALTED with its cause, from STARTING or RUNNING; a later cause changes nothing (R179).
Each request in execution ends with no completion (R139), slot by slot in rising number. Where several slots then
take the exit of a standing SLOT_POWER OFF, their order is open in R179 (DESIGN CHOICE, log entry 41). -/
def State.halt (s : State) (cause : HaltCause) : State :=
  match s.condition with
  | .starting | .running =>
    allSlots.foldl
      (fun s n => if (s.engine n).exec.isSome then s.discardWork n else s)
      { s with condition := .halted, haltCause := cause }
  | .off | .halted | .resetting => s

/-! ### Function reset -/

/-- The record write in progress at a function reset: its outcome will be disregarded (R100). -/
def RecordWrite.abandon (w : RecordWrite) : RecordWrite := { w with moot := true }

/-- A completion ring after a function reset: ABSENT, a write already issued left to end (R100). -/
def CompletionRing.discarded (x : CompletionRing) : CompletionRing :=
  { CompletionRing.absent with writing := x.writing.map fun w => (w.1, w.2.abandon) }

/-- The notice ring in ABSENT, a write already issued left to end (R100, R170). -/
def NoticeRing.discarded (x : NoticeRing) : NoticeRing :=
  { NoticeRing.absent with writing := x.writing.map fun w => (w.1, w.2.abandon) }

/-- The host-facing state at the event that begins a function reset (R180), but for the slots and engines:
registers, start record copy, rings, control unit, lock table, lane, dirty flags and vectors. A start record
read in flight becomes moot (R178). -/
def State.clearHostSide (s : State) : State :=
  { s with
    condition := .resetting, intEnable := false, haltCause := .none, postError := false
    startCopy := none, startRead := none
    startMoot := if s.startRead.isSome then s.startMoot + 1 else s.startMoot
    rings := Vector.replicate 8 RequestRing.absent
    roundRobin := 0
    recordRead := s.recordRead.map fun f => { f with moot := true }
    waitOrders := Vector.replicate 8 []
    control := none
    snapshotWrite := s.snapshotWrite.map fun w => { w with moot := true }
    deferred := []
    locks := []
    lane := Lane.initial
    compRings := Vector.ofFn fun c => (s.comp c).discarded
    notices := s.notices.discarded
    slotDirty := Vector.replicate 8 SlotDirty.clear
    ringDirty := Vector.replicate 8 RingDirty.clear
    vectorPending := Vector.replicate 5 false }

/-- The function reset at slot `n` (R15, R58, R139): lists emptied, lane role NONE, the engine's work
discarded, and the action of R15 due when the engine reports, at once where nothing is on the bus. -/
def State.resetSlot (s : State) (n : SlotId) : State :=
  ((s.clearLists n).modSlot n fun x => { x with
    laneRole := .none
    resetDue := if x.state.powered then some x.config.retainPower else none }).discardWork n

/-- A function reset begins (R180); in RESETTING a second one is absorbed. -/
def State.functionReset (s : State) : State :=
  if s.condition = .resetting then s else allSlots.foldl State.resetSlot s.clearHostSide

/-- The work of a function reset has all ended (R180): every engine has reported and its slot been acted on,
and no data-buffer transfer or snapshot write is left in flight. -/
def State.resetWorkEnded (s : State) : Bool :=
  (allSlots.all fun n =>
    !(s.engine n).closing && (s.engine n).hostTransfer.isNone && (s.slot n).resetDue.isNone)
    && s.snapshotWrite.isNone

/-! ### Link and power-on reset -/

/-- A slot after a link or power-on reset: its input lines stay as they are (R14, R9). -/
def Slot.reinitialized (x : Slot) : Slot := Slot.initial x.prot x.det x.pg x.senA x.senB

/-- The whole part in its initial state, held there (R181): the state of R14 with the levels of the input
lines and the strap kept, and the model's own fields kept. -/
def State.initialized (s : State) : State :=
  { State.reset with
    pending := s.pending
    laneFitted := s.laneFitted
    inReset := true
    slots := Vector.ofFn fun n => (s.slot n).reinitialized
    readData := s.readData
    messagesSent := s.messagesSent
    freeCount := s.freeCount }

/-- The reset is released (R14, R181): a slot in EMPTY whose DETn is asserted enters SETTLING. -/
def State.release (s : State) : State :=
  allSlots.foldl
    (fun s n =>
      if (s.slot n).state = .empty ∧ (s.slot n).det = true then s.modSlot n Slot.enterSettling else s)
    { s with inReset := false }

/-! ### Start-up -/

/-- The address of the start record (R189). -/
def State.startAddress (s : State) : HostAddr := s.startHi ++ s.startLo

/-- Enter STARTING (R178): a misaligned address halts at once, else the start record read is issued. -/
def State.start (s : State) : State :=
  let s1 := { s with condition := .starting }
  if aligned64 s.startAddress then { s1 with startRead := some s.startAddress }
  else s1.halt .startRecord

/-- Accept the start record (R178): the copy is kept, completion ring 0 and request ring 0 become ACTIVE,
and the device is RUNNING. -/
def State.acceptStart (s : State) (r : StartRecord) : State :=
  let s1 := s.modComp 0 fun x => { CompletionRing.absent with
    active := true, base := r.compBase, size := r.compSize, vector := some 0
    writing := x.writing }
  let s2 := s1.setRing 0 { RequestRing.absent with
    state := .active, base := r.ringBase, size := r.ringSize, bound := some 0 }
  { s2 with condition := .running, startCopy := some r }

/-! ### Register writes -/

/-- A write of DEVCTL (R176). -/
def State.writeDevctl (s : State) (enable rst intEnable : Bool) : State :=
  match s.condition with
  | .resetting => s
  | .off =>
    if rst then s.functionReset
    else
      let s1 := { s with intEnable := intEnable }
      (if enable then s1.start else s1).deliverAll
  | .starting | .running | .halted =>
    if rst then s.functionReset
    else if enable = false then s.functionReset
    else { s with intEnable := intEnable }.deliverAll

/-- An ignored POST or TAKEN sets POST_ERROR (R177). -/
def State.ignoredPost (s : State) : State := { s with postError := true }

/-- A write of POST (R83). -/
def State.writePost (s : State) (r : RingId) (tail : Nat) : State :=
  let x := s.ring r
  if s.halted then s.ignoredPost
  else if x.state ≠ .active then s.ignoredPost
  else if x.size ≤ tail then s.faultRing r .badTail
  else if ringDiff x.size tail x.head < x.posted then s.ignoredPost
  else s.setRing r { x with tail := tail }

/-- A write of TAKEN for a completion ring (R84). -/
def State.takenComp (s : State) (c : CompRingId) (index : Nat) : State :=
  let x := s.comp c
  let moved := ringDiff x.size index x.consumed
  if x.active = false then s.ignoredPost
  else if x.size ≤ index then s.ignoredPost
  else if x.unconsumed < moved then s.ignoredPost
  else
    let s1 := s.setComp c { x with consumed := index, unconsumed := x.unconsumed - moved }
    if 0 < moved ∧ 0 < x.unconsumed - moved then s1.raiseOpt x.vector else s1

/-- A write of TAKEN for the notice ring (R84), which gives room to the dirty flags (R169). -/
def State.takenNotice (s : State) (index : Nat) : State :=
  let x := s.notices
  let moved := ringDiff x.size index x.consumed
  if x.active = false then s.ignoredPost
  else if x.size ≤ index then s.ignoredPost
  else if x.unconsumed < moved then s.ignoredPost
  else
    let s1 := { s with notices := { x with consumed := index, unconsumed := x.unconsumed - moved } }
    (if 0 < moved ∧ 0 < x.unconsumed - moved then s1.raise 4 else s1).drainDirty

/-- A write of TAKEN (R84, R190): targets 5, 6 and 7 name no ring. -/
def State.writeTaken (s : State) (target : Fin 8) (index : Nat) : State :=
  if s.halted then s.ignoredPost
  else if h : target.val < 4 then s.takenComp ⟨target.val, h⟩ index
  else if target = 4 then s.takenNotice index
  else s.ignoredPost

/-- A write at an offset of the register window (R175, R189, R190). -/
def State.writeRegister (s : State) (offset : Nat) (v : Word) : State :=
  match offset with
  | 0x04 => s.writeDevctl (v.getLsbD 0) (v.getLsbD 1) (v.getLsbD 2)
  | 0x0C => { s with startLo := v }
  | 0x10 => { s with startHi := v }
  | 0x14 => s.writePost (ringIdOf (v.toNat % 8)) (v.toNat / 65536)
  | 0x18 => s.writeTaken (ringIdOf (v.toNat % 8)) (v.toNat / 65536)
  | _ => s

end Sys2Proof.Machine
end

