-- ==== Sys2Proof/Machine/BusEvents.lean ====
section
/-! DEFINITION. The meanings of the slot bus events (Chapter 3): transactions, polls, waits, stuck episodes,
recovery and the abort mark. A command that finds no occasion in the state changes nothing (log entry 3). -/

namespace Sys2Proof.Machine

/-- A read transaction is open: no piece belongs to it (R40, R45). -/
def Engine.reading (e : Engine) : Bool :=
  (e.phase == .addressing || e.phase == .receiving) && e.piece.isNone

/-- A piece's write transaction is open. -/
def Engine.writing (e : Engine) : Bool :=
  (e.phase == .addressing || e.phase == .sending) && e.piece.isSome

/-- The bus read of a READ or COMPARE goes on with the next block, or ends (R47): a READ then writes its data
to the host (R128), a COMPARE completes SUCCESS (R130). -/
def State.advanceRead (s : State) (n : SlotId) (x : Execution) (next : Nat) : State :=
  let y := { x with next := next }
  if next < x.entry.stop then (s.setExec n y).openRead n next 1
  else if x.entry.kind = .compare then
    s.finish n { y.result n .success 0 with bytesDone := x.entry.length }
  else s.startHostWrite n y

/-- A COMPARE meets its first differing byte after `equal` equal ones of the transaction (R130). -/
def State.mismatch (s : State) (n : SlotId) (x : Execution) (equal : Nat) : State :=
  (s.completedTransfer n).finish n
    { x.result n .mismatch (x.next + equal) with bytesDone := x.next - x.entry.address + equal }

/-- The data bytes of a COMPARE's transaction (R130): compared as they arrive, up to the first that differs.
Fewer bytes than the transaction has, all equal, are no end of it (log entry 38). -/
def State.compareBytes (s : State) (n : SlotId) (x : Execution) (bytes : List Byte) :
    Host.Outcome State Fault Refusal :=
  let count := readCount x.next x.entry.stop
  let expected := Buffer.readAll (s.engine n).buffer (x.next - x.entry.address) count
  let equal := matching expected (bytes.take count)
  if equal < count then
    if bytes.length ≤ equal then s.receiveBytes n bytes else .next (s.mismatch n x equal)
  else .next ((s.completedTransfer n).advanceRead n x (x.next + count))

/-- The bus read of a READ or COMPARE under the abort mark ends ABORTED (R47, R57, R117) with the data bytes of
its transaction received in all: a READ's fill the data buffer, and a COMPARE that met a differing byte among
them ends MISMATCH (R137). -/
def State.closeMarkedRead (s : State) (n : SlotId) (x : Execution) (received : List Byte) :
    Host.Outcome State Fault Refusal :=
  let count := readCount x.next x.entry.stop
  let pos := x.next - x.entry.address
  let got := received.take count
  if x.entry.kind = .compare then
    let equal := matching (Buffer.readAll (s.engine n).buffer pos count) got
    if equal < got.length then .next (s.mismatch n x equal)
    else .next ((s.completedTransfer n).endMarked n x)
  else if Config.rawCapacity < pos + got.length then .fault .dataBufferRange
  else .next (((s.completedTransfer n).fillBuffer n pos got).endMarked n x)

/-- The read transaction that a reset or halt left open has ended (R58): its bytes fill the data buffer where
they are stored at all (R47), and the engine reports. -/
def State.closeRead (s : State) (n : SlotId) (received : List Byte) : Host.Outcome State Fault Refusal :=
  match (s.engine n).closeFill with
  | some (pos, count) =>
    let got := received.take count
    if Config.rawCapacity < pos + got.length then .fault .dataBufferRange
    else .next (((s.completedTransfer n).fillBuffer n pos got).engineReport n)
  | none => .next ((s.completedTransfer n).engineReport n)

/-- The data bytes that a read transaction brought. -/
def bytesOf (o : ReadOutcome) : List Byte :=
  match o with
  | .data bytes => bytes
  | .unanswered => []

/-- READ_TRANSACTION (R47, R48, R56, R57, R58). The bytes are those of the transaction from its first one; fewer
than it has arrive with the transaction still open, where it is not being closed (log entries 6 and 38). -/
def execReadTransaction (n : SlotId) (o : ReadOutcome) (s : State) :
    Host.Outcome State Fault Refusal :=
  let e := s.engine n
  if e.reading = false then .next s
  else if e.closing then s.closeRead n (bytesOf o)
  else
    match o with
    | .unanswered => .next ((s.completedTransfer n).unanswered n)
    | .data bytes =>
      match e.descRead, e.exec with
      | some d, _ =>
        if bytes.length < d.count then s.receiveBytes n bytes
        else if Config.rawCapacity < d.count then .fault .dataBufferRange
        else
          let got := bytes.take d.count
          .next (((s.completedTransfer n).fillBuffer n 0 got).descBytes n d got)
      | none, some x =>
        if x.stage ≠ .busRead then .next s
        else if x.abortMark then s.closeMarkedRead n x bytes
        else if x.entry.kind = .compare then s.compareBytes n x bytes
        else
          let count := readCount x.next x.entry.stop
          let pos := x.next - x.entry.address
          if bytes.length < count then s.receiveBytes n bytes
          else if Config.rawCapacity < pos + count then .fault .dataBufferRange
          else
            .next (((s.completedTransfer n).fillBuffer n pos (bytes.take count)).advanceRead n x
              (x.next + count))
      | none, none => .next s

/-- The open write transaction of a piece ends (R50, R57, R58): the piece was sent and its polling begins, or a
byte of it was refused. Under the abort mark a piece whose bytes were all acknowledged was closed by a repeated
START and STOP, and the WRITE ends ABORTED. -/
def State.endWrite (s : State) (n : SlotId) (o : WriteOutcome) : Host.Outcome State Fault Refusal :=
  let e := s.engine n
  if e.writing = false then .next s
  else if e.closing then .next ((s.completedTransfer n).engineReport n)
  else
    match e.piece, e.exec with
    | some p, some x =>
      match o with
      | .sent =>
        if x.abortMark then .next ((s.completedTransfer n).endMarked n x)
        else
          .next ((s.completedTransfer n).modEngine n fun g =>
            { g.enter .pollWait with
              pollCounter := 0, pollLimit := (s.slot n).config.pollLimit })
      | .unanswered => .next ((s.completedTransfer n).unanswered n)
      | .dataRefused acked =>
        if acked < p.length then
          .next ((s.completedTransfer n).failPieces n x .writeRefused
            (if acked = 0 then none else some p.start))
        else .next s
    | _, _ => .next s

/-- WRITE_TRANSACTION (R50): the START of the piece comes first where it has not been made (log entry 37). -/
def execWriteTransaction (n : SlotId) (o : WriteOutcome) (s : State) :
    Host.Outcome State Fault Refusal :=
  (s.startPiece n).endWrite n o

/-- POLL_WAIT_EXPIRY (R51): the poll transaction is opened. -/
def execPollWaitExpiry (n : SlotId) (s : State) : Host.Outcome State Fault Refusal :=
  let e := s.engine n
  match e.phase, e.piece with
  | .pollWait, some p => .next (s.openPoll n p)
  | _, _ => .next s

/-- A piece is confirmed (R51): bytes_done rises by its length, the current piece becomes none, and the WRITE
stands between its pieces, or ends its bus work; under the abort mark it ends ABORTED (R57). -/
def State.confirmPiece (s : State) (n : SlotId) (x : Execution) (p : Piece) : State :=
  let next := p.start + p.length
  let y := { x with next := next, bytesDone := x.bytesDone + p.length }
  if x.abortMark then s.endPieces n y .aborted
  else if next < x.entry.stop then (s.modEngine n fun e => e.idled).setExec n y
  else s.endPieces n y .success

/-- POLL (R51, R52, R58): an acknowledge confirms the piece; a refusal raises the poll counter, and above the
poll limit in use the piece is given up WRITE_TIMEOUT. -/
def execPoll (n : SlotId) (acked : Bool) (s : State) : Host.Outcome State Fault Refusal :=
  let e := s.engine n
  match e.phase, e.piece with
  | .polling, some p =>
    let s1 := s.completedTransfer n
    if acked then
      if e.closing then .next (s1.engineReport n)
      else
        match e.exec with
        | some x => .next (s1.confirmPiece n x p)
        | none => .next s
    else
      let s2 := s1.modEngine n fun g => { g with pollCounter := g.pollCounter + 1 }
      if e.pollCounter + 1 ≤ e.pollLimit then .next (s2.enterPhase n .pollWait)
      else if e.closing then .next (s2.engineReport n)
      else
        match e.exec with
        | some x => .next (s2.failPieces n x .writeTimeout (some p.start))
        | none => .next s
  | _, _ => .next s

/-- RETRY_WAIT_EXPIRY (R48): the next attempt of the same access is opened; under the abort mark none is
(R57). -/
def execRetryWaitExpiry (n : SlotId) (s : State) : Host.Outcome State Fault Refusal :=
  let e := s.engine n
  if e.phase ≠ .retryWait then .next s
  else
    match e.descRead, e.exec with
    | none, some x => if x.abortMark then .next (s.endMarked n x) else .next (s.reopen n)
    | _, _ => .next (s.reopen n)

/-- The transaction on the bus of slot `n` meets a stuck episode (R53): it ends there and the engine enters
RECOVERY. Met at the check before the START of a piece, the piece has not begun (R55, log entry 14). The block,
attempt count and speed written for a START that the episode forestalled stay (log entry 35), and so does the
speed through the recovery (log entry 34). -/
def State.meetStuck (s : State) (n : SlotId) (cause : StuckCause) (atStart : Bool) : State :=
  let e := s.engine n
  if e.phase.open then
    s.setEngine n { e.enter .recovery with
      piece := if atStart = true ∧ e.phase = .addressing then none else e.piece
      stuckCounter := if cause = .sclLow then Config.stuckMs else 0
      sclHeld := cause == .sclLow
      sdaHeld := cause == .sdaLow }
  else s

/-- STUCK_EPISODE (R53): at the START of a WRITE's next piece as in any open transaction (log entry 37). -/
def execStuckEpisode (n : SlotId) (cause : StuckCause) (atStart : Bool) (s : State) :
    Host.Outcome State Fault Refusal :=
  .next ((s.startPiece n).meetStuck n cause atStart)

/-- RECOVERY_END (R54, R55): finished when neither line is then held low, unfinished otherwise; the work that
met the episode ends either way. -/
def execRecoveryEnd (n : SlotId) (sclLow sdaLow : Bool) (s : State) :
    Host.Outcome State Fault Refusal :=
  if (s.engine n).phase = .recovery then
    .next ((s.modEngine n fun e => { e with
      sclHeld := sclLow, sdaHeld := sdaLow
      stuckCounter := if sclLow then Config.stuckMs else 0 }).endRecovery n)
  else .next s

/-- The data bytes that a read closed under the abort mark received. -/
def receivedIn (c : MarkClose) : List Byte :=
  match c with
  | .clean received => received
  | .addressRefused | .dataRefused _ => []

/-- ABORT_MARK (R57, R137): the engine acts on the mark by the request's stage and the bus phase. -/
def execAbortMark (n : SlotId) (close : MarkClose) (s : State) : Host.Outcome State Fault Refusal :=
  let e := s.engine n
  match e.exec, e.descRead with
  | some x, none =>
    if x.abortMark = false then .next s
    else
      match x.stage with
      | .busRead =>
        if e.reading then s.closeMarkedRead n x (receivedIn close)
        else if e.phase = .retryWait then .next (s.endMarked n x)
        else .next s
      | .pieces =>
        if e.phase = .retryWait ∨ e.betweenPieces = some x then .next (s.endMarked n x)
        else if e.writing then
          match close, e.piece with
          | .dataRefused acked, some p =>
            if acked < p.length then
              .next ((s.completedTransfer n).failPieces n x .writeRefused
                (if acked = 0 then none else some p.start))
            else .next s
          | _, _ => .next ((s.completedTransfer n).endMarked n x)
        else .next s
      | .hostRead | .hostWrite | .reparse _ | .refreshing => .next s
  | _, _ => .next s

end Sys2Proof.Machine
end

