-- ==== Sys2Proof/Machine/ControlRequests.lean ====
section
/-! DEFINITION. The meanings of the control requests (Chapter 6): each carries out the control request in
execution of its kind. While the device is halted the control unit carries out none (R120, log entry 16). -/

namespace Sys2Proof.Machine

/-- The control request in execution, when it is of this kind and the device is not halted. -/
def State.controlOf (s : State) (k : Kind) : Option ControlExec :=
  match s.control with
  | some c => if c.req.kind = k ∧ s.halted = false then some c else none
  | none => none

/-- A completion of the control request `c` with no slot and no generation (R104). -/
def ControlExec.result (c : ControlExec) (status : Status) (detail : Nat) : Completion :=
  completionOf 0 c.req.tag 0 c.ringHead status 0 detail

/-- The control unit is free, and the fetch arbiter may offer it the next staged record (R102). -/
def State.freeControl (s : State) : State := { s with control := none }.offerControl

/-- The control request in execution completes (R102). -/
def State.completeControl (s : State) (c : Completion) : State := (s.handOver c).freeControl

/-- The control request in execution is deferred (R102). -/
def State.defer (s : State) (d : Deferred) : State := { s with deferred := s.deferred ++ [d] }

/-- CREATE_REQUEST_RING (R105). -/
def execCreateRequestRing (s : State) : Host.Outcome State Fault Refusal :=
  match s.controlOf .createRequestRing with
  | none => .next s
  | some c =>
    let q := c.req
    let r := ringIdOf q.aux0
    let k := compRingIdOf q.aux1
    if (s.ring r).state ≠ .absent then .next (s.completeControl (c.result .inUse 0))
    else if (s.comp k).active = false then .next (s.completeControl (c.result .invalidField 12))
    else
      .next ((s.setRing r { RequestRing.absent with
        state := .active, base := q.buffer, size := q.auxHigh, bound := some k }).completeControl
          (c.result .success 0))

/-- The waiting entries of ring `r` in the pending list of slot `n`, ended RING_DELETED (R106). -/
def State.drainedEntries (s : State) (r : RingId) (n : SlotId) : List Completion :=
  ((s.engine n).pendingList.filter fun e => e.ring = r).map fun e =>
    e.ended n (s.slot n).generation .ringDeleted

/-- Step 2 of a drain (R106, R163): the waiting entries of ring `r` leave the pending lists and its waiters the
lane's list, each completing RING_DELETED; the freed places are offered (R92). Completions of different slots
and of the lane are unordered among each other. -/
def State.drainWaiting (s : State) (r : RingId) : State :=
  let waiters := s.lane.waiters.filter fun w => w.ring = r
  let laneGroups := waiters.map fun w =>
    [w.completion .ringDeleted (s.slot w.slot).generation 0]
  let slotGroups := allSlots.map fun n => s.drainedEntries r n
  let s1 := allSlots.foldl
    (fun s n => s.modEngine n fun e =>
      { e with pendingList := e.pendingList.filter fun e => e.ring ≠ r }) s
  let s2 := waiters.foldl State.dropWaiter s1
  allSlots.foldl State.offerPlaces (s2.handMerged (slotGroups ++ laneGroups))

/-- How many requests step 2 of a drain ends (R107). -/
def State.drainCount (s : State) (r : RingId) : Nat :=
  (allSlots.map fun n => (s.drainedEntries r n).length).sum
    + (s.lane.waiters.filter fun w => w.ring = r).length

/-- Step 3 of a drain (R106, R150, R163): the ring's lock entries are deleted and a hold its claim obtained
ends. -/
def State.drainHoldings (s : State) (r : RingId) : State :=
  let s1 := { s with locks := s.locks.filter fun l => l.owner ≠ r }
  match s.lane.holder with
  | some n => if s.lane.state = .held ∧ s.lane.holderRing = some r then s1.endHold n else s1
  | none => s1

/-- DELETE_REQUEST_RING (R106, R107). -/
def execDeleteRequestRing (s : State) : Host.Outcome State Fault Refusal :=
  match s.controlOf .deleteRequestRing with
  | none => .next s
  | some c =>
    let r := ringIdOf c.req.aux0
    match (s.ring r).state with
    | .absent => .next (s.completeControl (c.result .notFound 0))
    | .draining => .next (s.completeControl (c.result .busy 0))
    | .active | .faulted =>
      let s1 := (s.modRing r fun x => { x with state := .draining }).dropStaged r
      let s2 := ((s1.drainWaiting r).drainHoldings r).defer
        (.deleteRing r c.req.tag c.ringHead (s.drainCount r))
      .next (s2.checkDrained r).freeControl

/-- CREATE_COMPLETION_RING (R108). -/
def execCreateCompletionRing (s : State) : Host.Outcome State Fault Refusal :=
  match s.controlOf .createCompletionRing with
  | none => .next s
  | some c =>
    let q := c.req
    let k := compRingIdOf q.aux0
    if (s.comp k).active then .next (s.completeControl (c.result .inUse 0))
    else
      .next ((s.modComp k fun x => { CompletionRing.absent with
        active := true, base := q.buffer, size := q.auxHigh, vector := some (vectorIdOf q.aux1)
        writing := x.writing }).completeControl (c.result .success 0))

/-- DELETE_COMPLETION_RING (R109). -/
def execDeleteCompletionRing (s : State) : Host.Outcome State Fault Refusal :=
  match s.controlOf .deleteCompletionRing with
  | none => .next s
  | some c =>
    let k := compRingIdOf c.req.aux0
    if (s.comp k).active = false then .next (s.completeControl (c.result .notFound 0))
    else if (allRings.any fun r => (s.ring r).state ≠ .absent && (s.ring r).bound == some k) then
      .next (s.completeControl (c.result .inUse 0))
    else if 0 < (s.comp k).reserved then .next (s.completeControl (c.result .inUse 0))
    else
      .next ((s.modComp k fun x => { CompletionRing.absent with writing := x.writing }).completeControl
        (c.result .success 0))

/-- The notice ring is removed (R110, R170): a write in progress is disregarded, and its report set again as a
dirty flag. A record that stood for both kinds restores both (DESIGN CHOICE, log entry 42). -/
def State.removeNoticeRing (s : State) : State :=
  let s1 := { s with notices := s.notices.discarded }
  match s.notices.writing with
  | some (p, w) => if w.moot then s1 else s1.setDirty p
  | none => s1

/-- SET_NOTICE_RING (R110, R170): its own completion is handed over before the dirty flags are drained into a
ring it installs. -/
def execSetNoticeRing (s : State) : Host.Outcome State Fault Refusal :=
  match s.controlOf .setNoticeRing with
  | none => .next s
  | some c =>
    let q := c.req
    if q.auxHigh = 0 then
      if s.notices.active then .next (s.removeNoticeRing.completeControl (c.result .success 0))
      else .next (s.completeControl (c.result .success 0))
    else if s.notices.active then .next (s.completeControl (c.result .inUse 0))
    else
      .next ({ s with notices := { NoticeRing.absent with
        active := true, base := q.buffer, size := q.auxHigh
        writing := s.notices.writing } }.completeControl (c.result .success 0)).drainDirty

/-- A completion of the control request `c` about its slot, with the slot's generation now (R104). -/
def State.slotResult (s : State) (c : ControlExec) (status : Status) (detail : Nat) : Completion :=
  completionOf 0 c.req.tag c.req.slot.val c.ringHead status (s.slot c.req.slot).generation detail

/-- CONFIGURE_SLOT (R111): all seven settings are replaced together, in every slot state. -/
def execConfigureSlot (s : State) : Host.Outcome State Fault Refusal :=
  match s.controlOf .configureSlot with
  | none => .next s
  | some c =>
    .next ((s.modSlot c.req.slot fun x => { x with config := SlotConfig.decode c.req.aux.toNat }
      ).completeControl (s.slotResult c .success 0))

/-- The SLOT_POWER in execution completes with this status; its detail is the slot state as it then is
(R104). -/
def State.completePower (s : State) (c : ControlExec) (status : Status) : State :=
  s.completeControl (s.slotResult c status (s.slot c.req.slot).state.code)

/-- The SLOT_POWER in execution in this direction, 1 for on and 0 for off. -/
def State.powerRequest (s : State) (direction : Nat) : Option ControlExec :=
  match s.controlOf .slotPower with
  | some c => if c.req.aux0 = direction then some c else none
  | none => none

/-- SLOT_POWER_ON (R35, R112). -/
def execSlotPowerOn (s : State) : Host.Outcome State Fault Refusal :=
  match s.powerRequest 1 with
  | none => .next s
  | some c =>
    let n := c.req.slot
    if (s.deferredOff n).isSome then .next (s.completePower c .busy)
    else
      match (s.slot n).state with
      | .empty | .settling => .next (s.completePower c .notReady)
      | .held | .fault =>
        .next (((s.modSlot n fun x => x.enterProbing .host).notifyState n).completePower c .success)
      | .probing =>
        .next ((s.modSlot n fun x => { x with origin := .host }).completePower c .success)
      | .powering | .reading | .ready => .next (s.completePower c .success)

/-- SLOT_POWER OFF for a READY slot (R37): the OFF is deferred, the waiting entries are held over POWERED_OFF
and their places offered, and the exit follows at once when nothing is in execution. -/
def State.deferOff (s : State) (n : SlotId) (c : ControlExec) : State :=
  let s1 := ((s.defer (.powerOff n c.req.tag c.ringHead)).modEngine n fun e =>
    { e with heldOver := e.heldOver ++ e.pendingList, pendingList := [] }).offerPlaces n
  if (s.engine n).exec.isSome then s1 else s1.exitOff n []

/-- SLOT_POWER_OFF (R36, R37, R112). Out of PROBING, POWERING or READING the SUCCESS is handed over last
(log entry 32). -/
def execSlotPowerOff (s : State) : Host.Outcome State Fault Refusal :=
  match s.powerRequest 0 with
  | none => .next s
  | some c =>
    let n := c.req.slot
    if (s.deferredOff n).isSome then .next (s.completePower c .busy)
    else
      match (s.slot n).state with
      | .empty | .settling => .next (s.completePower c .notReady)
      | .probing | .powering | .reading => .next ((s.powerOffNow n).completePower c .success)
      | .ready => .next (s.deferOff n c).freeControl
      | .held => .next (s.completePower c .success)
      | .fault =>
        .next (((s.modSlot n fun x => { x with state := .held, reason := .manualOff }).notifyState
          n).completePower c .success)

/-- READ_SLOT_RECORD (R113): the record is copied at one instant and its host write starts; the request stays
in execution. -/
def execReadSlotRecord (s : State) : Host.Outcome State Fault Refusal :=
  match s.controlOf .readSlotRecord with
  | none => .next s
  | some c =>
    match s.snapshotWrite with
    | some _ => .next s
    | none =>
      let x := s.slot c.req.slot
      let w : SnapshotWrite :=
        { address := c.req.buffer, bytes := x.snapshot c.req.slot, generation := x.generation
          slotState := x.state, moot := false }
      .next { s with snapshotWrite := some w }

/-- SNAPSHOT_WRITE_DONE (R113, R120): the READ_SLOT_RECORD completes SUCCESS or HOST_WRITE_ERROR with the
generation and state of the snapshot. -/
def execSnapshotWriteDone (ok : Bool) (s : State) : Host.Outcome State Fault Refusal :=
  match s.snapshotWrite with
  | none => .next s
  | some w =>
    let s1 := { s with snapshotWrite := none }
    if w.moot then .next s1
    else
      match s.control with
      | none => .next s1
      | some c =>
        .next (s1.completeControl (completionOf 0 c.req.tag c.req.slot.val c.ringHead
          (if ok then .success else .hostWriteError) w.generation w.slotState.code))

/-- Where the target of an ABORT stands (R114, cases 4 to 7). -/
inductive AbortTarget where
  | waiting (n : SlotId) (e : Entry)
  | claim (w : Waiter)
  | executing (n : SlotId) (x : Execution)
  | decided
deriving DecidableEq, Repr

/-- The entry of ring `r` with tag `t` in the pending list of slot `n`. -/
def State.waitingEntry (s : State) (r : RingId) (t : Half) (n : SlotId) : Option Entry :=
  (s.engine n).pendingList.find? fun e => e.ring = r && e.tag = t

/-- The request of ring `r` with tag `t` in execution on slot `n`. -/
def State.executing (s : State) (r : RingId) (t : Half) (n : SlotId) : Option Execution :=
  match (s.engine n).exec with
  | some x => if x.entry.ring = r ∧ x.entry.tag = t then some x else none
  | none => none

/-- Find the target of an ABORT (R114, cases 4 to 7). -/
def State.findTarget (s : State) (r : RingId) (t : Half) : AbortTarget :=
  match allSlots.findSome? fun n => (s.waitingEntry r t n).map fun e => (n, e) with
  | some (n, e) => .waiting n e
  | none =>
    match s.lane.waiters.find? fun w => w.ring = r && w.tag = t with
    | some w => .claim w
    | none =>
      match allSlots.findSome? fun n => (s.executing r t n).map fun x => (n, x) with
      | some (n, x) => .executing n x
      | none => .decided

/-- ABORT (R114 to R117). -/
def execAbort (s : State) : Host.Outcome State Fault Refusal :=
  match s.controlOf .abort with
  | none => .next s
  | some c =>
    let r := ringIdOf c.req.aux0
    let t := BitVec.ofNat 16 c.req.auxHigh
    if (s.ring r).state = .absent then .next (s.completeControl (c.result .notFound 0))
    else if t ∉ (s.ring r).tags then .next (s.completeControl (c.result .notFound 0))
    else if (s.deferredAbort r t).isSome then .next (s.completeControl (c.result .busy 0))
    else
      let s1 := s.defer (.abort r t c.req.tag c.ringHead)
      match s.findTarget r t with
      | .waiting n e =>
        .next (((s1.modEngine n fun g => { g with pendingList := g.pendingList.erase e }).handOver
          (e.ended n (s.slot n).generation .aborted)).offerPlaces n).freeControl
      | .claim w =>
        .next ((s1.dropWaiter w).handOver
          (w.completion .aborted (s.slot w.slot).generation 0)).freeControl
      | .executing n x => .next (s1.setExec n { x with abortMark := true }).freeControl
      | .decided => .next s1.freeControl

/-- The LANE_CONTROL in execution with this action, 1 to enable and 0 to disable. -/
def State.laneRequest (s : State) (action : Nat) : Option ControlExec :=
  match s.controlOf .laneControl with
  | some c => if c.req.aux0 = action then some c else none
  | none => none

/-- LANE_CONTROL_ENABLE (R119, R164). -/
def execLaneControlEnable (s : State) : Host.Outcome State Fault Refusal :=
  match s.laneRequest 1 with
  | none => .next s
  | some c =>
    if s.laneFitted = false then
      .next (s.completeControl (c.result .laneUnavailable s.lane.state.code))
    else
      let s1 := s.modLane fun l => { l with
        settleInterval := c.req.aux1
        state := if l.state = .disabled then .free else l.state }
      .next (s1.completeControl (c.result .success s1.lane.state.code))

/-- LANE_CONTROL_DISABLE (R119, R164): the waiters' completions come first. -/
def execLaneControlDisable (s : State) : Host.Outcome State Fault Refusal :=
  match s.laneRequest 0 with
  | none => .next s
  | some c =>
    let s1 := if s.lane.state = .disabled then s else s.disableLane
    .next (s1.completeControl (c.result .success LaneState.disabled.code))

end Sys2Proof.Machine
end

