-- ==== Sys2Proof/Machine/DeviceEvents.lean ====
section
/-! DEFINITION. The meanings of the device events (Chapter 11): registers, start-up, resets, interrupt masks.
While a power-on or link reset holds the part the host cannot reach it (R181, log entry 9). -/

namespace Sys2Proof.Machine

/-- ENABLE (R176): a write of DEVCTL with RESET 0. -/
def execEnable (on intEnable : Bool) (s : State) : Host.Outcome State Fault Refusal :=
  if s.inReset then .next s else .next (s.writeDevctl on false intEnable)

/-- RESET (R176, R180): a write of DEVCTL with RESET 1. -/
def execReset (on intEnable : Bool) (s : State) : Host.Outcome State Fault Refusal :=
  if s.inReset then .next s else .next (s.writeDevctl on true intEnable)

/-- INT_ENABLE (R172, R176): a write of DEVCTL that leaves ENABLE as it stands. -/
def execIntEnable (on : Bool) (s : State) : Host.Outcome State Fault Refusal :=
  if s.inReset then .next s else .next (s.writeDevctl s.condition.enabled false on)

/-- RESET_BUSY_CLEAR (R180): when the work of the function reset has all ended, the device is OFF. -/
def execResetBusyClear (s : State) : Host.Outcome State Fault Refusal :=
  if s.condition = .resetting ∧ s.resetWorkEnded = true then .next { s with condition := .off }
  else .next s

/-- FUNCTION_LEVEL_RESET (R172, R180): a function reset that also sets every mask indication. In RESETTING the
function reset is absorbed, and the mask indications alone are set (log entry 11). -/
def execFunctionLevelReset (s : State) : Host.Outcome State Fault Refusal :=
  if s.inReset then .next s
  else .next { s.functionReset with vectorMasked := Vector.replicate 5 true }

/-- DEVSTAT_READ (R177): the read reports the indications and clears POST_ERROR. -/
def execDevstatRead (s : State) : Host.Outcome State Fault Refusal :=
  if s.inReset then .next s
  else .next { s with readData := s.readRegister 0x08, postError := false }

/-- REGISTER_WRITE (R175, R190). -/
def execRegisterWrite (offset : Nat) (value : Word) (s : State) :
    Host.Outcome State Fault Refusal :=
  if s.inReset then .next s else .next (s.writeRegister offset value)

/-- START_RECORD_READ_DONE (R178): the record is checked and accepted, or the device halts. The outcome of a
moot read is disregarded (log entry 17). -/
def execStartRecordReadDone (o : StartReadOutcome) (s : State) :
    Host.Outcome State Fault Refusal :=
  if o.moot then .next { s with startMoot := s.startMoot - 1 }
  else
    match s.startRead with
    | none => .next s
    | some _ =>
      let s1 := { s with startRead := none }
      if s.condition ≠ .starting then .next s1
      else
        match o.record with
        | none => .next (s1.halt .startRecord)
        | some l =>
          if startRecordOk l.toList then .next (s1.acceptStart (startRecordOf l.toList))
          else .next (s1.halt .startRecord)

/-- MASK_CHANGE (R172): unmasking lets a pending flag send its message. -/
def execMaskChange (v : VectorId) (masked : Bool) (s : State) : Host.Outcome State Fault Refusal :=
  if s.inReset then .next s else .next ((s.setVecMasked v masked).deliver v)

/-- LINK_RESET (R181). -/
def execLinkReset (s : State) : Host.Outcome State Fault Refusal := .next s.initialized

/-- POWER_ON_RESET (R181). -/
def execPowerOnReset (s : State) : Host.Outcome State Fault Refusal := .next s.initialized

/-- RESET_RELEASE (R14, R181). -/
def execResetRelease (s : State) : Host.Outcome State Fault Refusal :=
  if s.inReset then .next s.release else .next s

end Sys2Proof.Machine
end

