-- ==== Sys2Proof/Machine/LaneEvents.lean ====
section
/-! DEFINITION. The meanings of the lane arbiter's own events (Chapter 9). -/

namespace Sys2Proof.Machine

/-- SETTLE_TIMER_EXPIRY_LANE (R159). -/
def execSettleTimerExpiryLane (s : State) : Host.Outcome State Fault Refusal :=
  if s.lane.state = .settling ∧ s.lane.settleTimer.isSome = true then .next s.endSettling
  else .next s

/-- WAIT_TIMER_EXPIRY (R160): the waiter leaves the list and its claim completes TIMEOUT. -/
def execWaitTimerExpiry (n : SlotId) (s : State) : Host.Outcome State Fault Refusal :=
  match s.waiterOf n with
  | some w =>
    if w.timer.isSome then
      .next ((s.dropWaiter w).handOver (w.completion .timeout w.generation w.limit))
    else .next s
  | none => .next s

/-- LANE_STRAP_CHANGE (R154): a strap that reports no switch takes the lane to DISABLED. -/
def execLaneStrapChange (fitted : Bool) (s : State) : Host.Outcome State Fault Refusal :=
  let s1 := { s with laneFitted := fitted }
  if fitted = false ∧ s.lane.state ≠ .disabled then .next s1.disableLane else .next s1

end Sys2Proof.Machine
end

