-- ==== Sys2Proof/Machine/RequestEvents.lean ====
section
/-! DEFINITION. The meanings of the descriptor memory and lock requests (Chapters 7 and 8): the starts at
the head of a pending list and the ends of host transfers. -/

namespace Sys2Proof.Machine

/-- The entry at the head of the pending list of slot `n`, with the rest, when the engine may start it and it
is of this kind (R124). -/
def State.startable (s : State) (n : SlotId) (k : Kind) : Option (Entry × List Entry) :=
  match (s.engine n).pendingList with
  | e :: rest => if s.mayStart n = true ∧ e.kind = k then some (e, rest) else none
  | [] => none

/-- The request that has just begun, with a continuation on the state that holds it. -/
def State.startWith (s : State) (n : SlotId) (k : Kind) (stage : Stage)
    (go : State → Entry → Execution → State) : State :=
  match s.startable n k with
  | none => s
  | some (e, rest) =>
    let s1 := s.begin n e rest stage
    match (s1.engine n).exec with
    | some x => go s1 e x
    | none => s1

/-- READ (R128): its checks, then the bus read of its range. -/
def execRead (n : SlotId) (s : State) : Host.Outcome State Fault Refusal :=
  .next (s.startWith n .read .busRead fun s1 _ x => s1.afterChecks n x)

/-- WRITE (R132): the host read of its buffer, before its checks. -/
def execWrite (n : SlotId) (s : State) : Host.Outcome State Fault Refusal :=
  .next (s.startWith n .write .hostRead fun s1 e _ => s1.startHostRead n e)

/-- COMPARE (R130): the host read of its buffer, before its checks. -/
def execCompare (n : SlotId) (s : State) : Host.Outcome State Fault Refusal :=
  .next (s.startWith n .compare .hostRead fun s1 e _ => s1.startHostRead n e)

/-- REFRESH (R78, R135): the generation check, then a descriptor read. -/
def execRefresh (n : SlotId) (s : State) : Host.Outcome State Fault Refusal :=
  .next (s.startWith n .refresh .refreshing fun s1 e x =>
    if staleFor e x.seen.generation then s1.finish n (x.result n .stale e.generation.toNat)
    else s1.startDescRead n)

/-- LOCK (R143): checks, action and completion in one event. -/
def execLock (n : SlotId) (s : State) : Host.Outcome State Fault Refusal :=
  .next (s.startWith n .lock .busRead fun s1 _ x => s1.finishLock n x (s1.lockOutcome n x))

/-- UNLOCK (R146): checks, action and completion in one event. -/
def execUnlock (n : SlotId) (s : State) : Host.Outcome State Fault Refusal :=
  .next (s.startWith n .unlock .busRead fun s1 _ x => s1.finishLock n x (s1.unlockOutcome n x))

/-- An abandoned host transfer has ended (R138): a descriptor read that waited for it makes its first
transfer. -/
def State.abandonedEnded (s : State) (n : SlotId) : State :=
  let s1 := s.modEngine n fun e => { e with hostTransfer := none }
  match (s.engine n).descRead with
  | some d => s1.openRead n d.address 1
  | none => s1

/-- HOST_READ_DONE (R127, R130, R132, R138): the data fill the buffer and the checks follow; a failed read ends
the request HOST_READ_ERROR, the abort mark ABORTED whatever the outcome (R131). A failed read leaves the data buffer
as it was, of which R127 says nothing (DESIGN CHOICE, log entry 40). -/
def execHostReadDone (n : SlotId) (data : Option (List Byte)) (s : State) :
    Host.Outcome State Fault Refusal :=
  let e := s.engine n
  match e.hostTransfer with
  | none => .next s
  | some h =>
    if h.toHost then .next s
    else if h.abandoned then .next (s.abandonedEnded n)
    else
      let s1 := s.modEngine n fun g => { g with hostTransfer := none }
      match e.exec with
      | none => .next s1
      | some x =>
        match data with
        | none =>
          if x.abortMark then .next (s1.finish n (x.result n .aborted 0))
          else .next (s1.finish n (x.result n .hostReadError 0))
        | some bytes =>
          if bytes.length ≠ h.length then .next s
          else if Config.rawCapacity < bytes.length then .fault .dataBufferRange
          else
            let s2 := s1.fillBuffer n 0 bytes
            if x.abortMark then .next (s2.finish n (x.result n .aborted 0))
            else .next (s2.afterChecks n x)

/-- HOST_WRITE_DONE (R128, R138): the READ completes SUCCESS or HOST_WRITE_ERROR. -/
def execHostWriteDone (n : SlotId) (ok : Bool) (s : State) : Host.Outcome State Fault Refusal :=
  let e := s.engine n
  match e.hostTransfer with
  | none => .next s
  | some h =>
    if h.toHost = false then .next s
    else if h.abandoned then .next (s.abandonedEnded n)
    else
      let s1 := s.modEngine n fun g => { g with hostTransfer := none }
      match e.exec with
      | none => .next s1
      | some x =>
        if ok then .next (s1.finish n { x.result n .success 0 with bytesDone := x.entry.length })
        else .next (s1.finish n (x.result n .hostWriteError 0))

end Sys2Proof.Machine
end

