-- ==== Sys2Proof/Machine/RingEvents.lean ====
section
/-! DEFINITION. The meanings of the ring events (Chapters 5 and 10): POST, TAKEN, the record read, and the
ends of completion and notice record writes. -/

namespace Sys2Proof.Machine

/-- POST (R83). -/
def execPost (r : RingId) (tail : Half) (s : State) : Host.Outcome State Fault Refusal :=
  if s.inReset then .next s else .next (s.writePost r tail.toNat)

/-- TAKEN (R84). -/
def execTaken (target : Fin 8) (index : Half) (s : State) : Host.Outcome State Fault Refusal :=
  if s.inReset then .next s else .next (s.writeTaken target index.toNat)

/-- Ring `r` is eligible for a fetch (R86): given with its bound completion ring. -/
def State.eligible (s : State) (r : RingId) : Option CompRingId :=
  let x := s.ring r
  if s.halted = false ∧ x.state = .active ∧ x.head ≠ x.tail ∧ x.staging = .empty then
    match x.bound with
    | some c => if (s.comp c).hasCredit then some c else none
    | none => none
  else none

/-- The rings in the order the arbiter examines them (R86). -/
def State.searchOrder (s : State) : List RingId := allRings.map fun i => s.roundRobin + i

/-- Start the fetch of ring `r` bound to completion ring `c` (R87): one reservation, the staging place
fetching, the read issued, the pointer behind the ring. -/
def State.startFetch (s : State) (r : RingId) (c : CompRingId) : State :=
  let x := s.ring r
  { ((s.modComp c fun y => { y with reserved := y.reserved + 1 }).setRing r
      { x with staging := .fetching }) with
    recordRead := some { ring := r, address := x.recordAddress x.head, moot := false }
    roundRobin := r + 1 }

/-- FETCH_START (R86): the first eligible ring from the pointer on, when the read path is free. -/
def execFetchStart (s : State) : Host.Outcome State Fault Refusal :=
  match s.recordRead with
  | some _ => .next s
  | none =>
    match s.searchOrder.findSome? fun r => (s.eligible r).map fun c => (r, c) with
    | some (r, c) => .next (s.startFetch r c)
    | none => .next s

/-- The staging place of a ring whose fetch ended unused becomes empty. -/
def State.clearStaging (s : State) (r : RingId) : State :=
  s.modRing r fun x => { x with staging := .empty }

/-- RECORD_READ_DONE (R87): by the first case that holds. -/
def execRecordReadDone (record : Option (Vector Byte 32)) (s : State) :
    Host.Outcome State Fault Refusal :=
  match s.recordRead with
  | none => .next s
  | some f =>
    let r := f.ring
    let s1 := { s with recordRead := none }
    if f.moot then .next s1
    else if (s.ring r).state ≠ .active then
      .next (((s1.clearStaging r).returnReservation r).checkDrained r)
    else if s.halted then .next (s1.clearStaging r)
    else
      match record with
      | some l => .next (s1.stage r l.toList)
      | none =>
        if r = 0 then .next ((s1.clearStaging r).halt .controlFetch)
        else .next (((s1.clearStaging r).returnReservation r).faultRing r .readError)

/-- The deferred ABORT whose target's completion has been written completes (R118); its completion is given
here and not yet handed over. -/
def State.reportAborted (s : State) (c : Completion) : State × List Completion :=
  if c.refused then (s, [])
  else
    match s.deferredAbort c.ring c.tag with
    | some (tag, head) =>
      (s.dropAbort c.ring c.tag,
        [completionOf 0 tag 0 head (if c.status = .aborted then .success else .tooLate) 0
          c.status.code])
    | none => (s, [])

/-- The record of a completion ring has been written (R94): the reservation becomes an unconsumed entry, the
produce index advances with the phase, and the vector is raised from an empty ring (R171). -/
def CompletionRing.written (x : CompletionRing) : CompletionRing :=
  { x with
    writing := none
    reserved := x.reserved - 1
    unconsumed := x.unconsumed + 1
    produce := nextIndex x.size x.produce
    phase := if x.produce + 1 < x.size then x.phase else !x.phase }

/-- The request ring of a written completion (R90, R94): a refused record is taken; any other request's tag
leaves the outstanding tags. -/
def RequestRing.completed (x : RequestRing) (c : Completion) : RequestRing :=
  if c.refused then { x with head := x.nextHead, staging := .empty }
  else { x with tags := x.tags.erase c.tag }

/-- COMPLETION_WRITE_DONE (R94). The completions of an ABORT and of a DELETE_REQUEST_RING that the same write
causes reach the poster in an open order (R118). -/
def execCompletionWriteDone (c : CompRingId) (s : State) : Host.Outcome State Fault Refusal :=
  let x := s.comp c
  match x.writing with
  | none => .next s
  | some (r, w) =>
    let freed := s.setComp c { x with writing := none }
    if w.moot then .next (freed.issueCompletion c)
    else if s.halted then .next freed
    else
      let s1 := (s.setComp c x.written).modRing r.ring fun y => y.completed r
      let s2 := if x.unconsumed = 0 then s1.raiseOpt x.vector else s1
      let s3 := s2.issueCompletion c
      let a := s3.reportAborted r
      let d := a.1.reportDrained r.ring
      .next (d.1.handMerged [a.2, d.2])

/-- COMPLETION_WRITE_FAILED (R96): the device halts with cause POST_WRITE and the record is not counted. -/
def execCompletionWriteFailed (c : CompRingId) (s : State) : Host.Outcome State Fault Refusal :=
  let x := s.comp c
  match x.writing with
  | none => .next s
  | some (_, w) =>
    let freed := s.setComp c { x with writing := none }
    if w.moot then .next (freed.issueCompletion c)
    else .next (freed.halt .postWrite)

/-- The notice record has been written (R167). -/
def NoticeRing.written (x : NoticeRing) : NoticeRing :=
  { x with
    writing := none
    unconsumed := x.unconsumed + 1
    produce := nextIndex x.size x.produce
    phase := if x.produce + 1 < x.size then x.phase else !x.phase }

/-- NOTICE_WRITE_DONE (R167, R170): the record is counted, vector 4 raised from an empty ring, and the dirty
flags drained. -/
def execNoticeWriteDone (s : State) : Host.Outcome State Fault Refusal :=
  let x := s.notices
  match x.writing with
  | none => .next s
  | some (_, w) =>
    let freed := { s with notices := { x with writing := none } }
    if w.moot then .next freed.drainDirty
    else if s.halted then .next freed
    else
      let s1 := { s with notices := x.written }
      .next (if x.unconsumed = 0 then s1.raise 4 else s1).drainDirty

/-- NOTICE_WRITE_FAILED (R167, R170): the device halts with cause POST_WRITE, unless the write is
disregarded. -/
def execNoticeWriteFailed (s : State) : Host.Outcome State Fault Refusal :=
  let x := s.notices
  match x.writing with
  | none => .next s
  | some (_, w) =>
    let freed := { s with notices := { x with writing := none } }
    if w.moot then .next freed.drainDirty else .next (freed.halt .postWrite)

end Sys2Proof.Machine
end

