-- ==== Sys2Proof/Machine/SlotEvents.lean ====
section
/-! DEFINITION. The meanings of the slot events (Chapters 1 and 2): the detect, power-good and protect
lines and the sequencer's timers. A command that finds no occasion in the state changes nothing (log entry
3). -/

namespace Sys2Proof.Machine

/-- DETn takes a level (R18, R19, R29): EMPTY to SETTLING, the restart of the settle timer at full length,
or a removal. A timer is held as its length, so the restart leaves that length running. While a reset holds
the part the line is only followed (R181). -/
def State.detLine (s : State) (n : SlotId) (asserted : Bool) : State :=
  let s1 := s.modSlot n fun x => { x with det := asserted }
  if s.inReset then s1
  else
    match (s.slot n).state with
    | .empty => if asserted then s1.modSlot n Slot.enterSettling else s1
    | .settling => s1
    | .probing | .powering | .reading | .ready | .held | .fault =>
      if asserted then s1 else s1.remove n

/-- DET_ASSERTED (R18). -/
def execDetAsserted (n : SlotId) (s : State) : Host.Outcome State Fault Refusal :=
  .next (s.detLine n true)

/-- DET_EDGE (R19). -/
def execDetEdge (n : SlotId) (asserted : Bool) (s : State) : Host.Outcome State Fault Refusal :=
  .next (s.detLine n asserted)

/-- REMOVAL (R29, R30, R32). -/
def execRemoval (n : SlotId) (s : State) : Host.Outcome State Fault Refusal :=
  .next (s.detLine n false)

/-- SETTLE_TIMER_EXPIRY (R19): DETn asserted accepts the insertion (R20); otherwise the slot returns to
EMPTY, its waiting requests completed REMOVED. -/
def execSettleTimerExpiry (n : SlotId) (s : State) : Host.Outcome State Fault Refusal :=
  let x := s.slot n
  if x.state = .settling ∧ x.settleTimer.isSome = true then
    if x.det then
      .next ((s.setSlot n
        ({ x with generation := nextGeneration x.generation }.enterProbing .auto)).notifyState n)
    else .next ((s.setSlot n x.emptied).endWaiting n .removed)
  else .next s

/-- The end of a probe (R22, R23): the sense code and class are written, and the tests of R23 choose HELD
with a reason or POWERING. -/
def State.endProbe (s : State) (n : SlotId) (agreed : Option SensePair) : State :=
  let x := (s.slot n).writeSense agreed
  match x.probeVerdict agreed with
  | some why =>
    ((s.setSlot n (x.rest .held why)).notifyState n).endWaiting n
      (if why = .manualOff then .poweredOff else .notReady)
  | none => (s.setSlot n x.enterPowering).notifyState n

/-- PROBE_TIMER_EXPIRY (R21, R22): the end of a phase samples the lines and advances the pass, the attempt
or the probe. -/
def execProbeTimerExpiry (n : SlotId) (senA senB : Bool) (s : State) :
    Host.Outcome State Fault Refusal :=
  let x := s.slot n
  match x.state, x.probe with
  | .probing, some p =>
    let y := { x with senA := senA, senB := senB }
    if p.highPhase = false then
      .next (s.setSlot n { y with
        probe := some { p with highPhase := true, lowA := senA, lowB := senB }, prb := true })
    else
      let pair := pairOf p senA senB
      if p.secondPass = false then
        .next (s.setSlot n { y with
          probe := some { p with secondPass := true, highPhase := false, firstPair := pair }
          prb := false })
      else if p.firstPair = pair ∧ pair.isSome = true then .next ((s.setSlot n y).endProbe n pair)
      else if p.repeatAttempt = false then
        .next (s.setSlot n { y with probe := some (Probe.start true), prb := false })
      else .next ((s.setSlot n y).endProbe n none)
  | _, _ => .next s

/-- PG_ASSERTED (R25): in POWERING with the mark clear, the mark is set, the PG timer stops and the wake
timer starts. -/
def execPgAsserted (n : SlotId) (s : State) : Host.Outcome State Fault Refusal :=
  let x := s.slot n
  if x.state = .powering ∧ x.pgSeen = false then
    .next (s.setSlot n { x with
      pg := true, pgSeen := true, pgTimer := none, wakeTimer := some Config.wakeMs })
  else .next (s.setSlot n { x with pg := true })

/-- PG_DEASSERTED (R25, R26, R31): in POWERING after PG was seen, in READING and in READY, the slot goes to
FAULT(POWER_LOST). -/
def execPgDeasserted (n : SlotId) (s : State) : Host.Outcome State Fault Refusal :=
  let s1 := s.modSlot n fun x => { x with pg := false }
  match (s.slot n).state with
  | .powering => if (s.slot n).pgSeen then .next (s1.losePower n) else .next s1
  | .reading | .ready => .next (s1.losePower n)
  | .empty | .settling | .probing | .held | .fault => .next s1

/-- PG_TIMER_EXPIRY (R25): FAULT(PG_TIMEOUT). -/
def execPgTimerExpiry (n : SlotId) (s : State) : Host.Outcome State Fault Refusal :=
  let x := s.slot n
  if x.state = .powering ∧ x.pgTimer.isSome = true ∧ x.pgSeen = false then
    .next (s.faultSlot n .pgTimeout [])
  else .next s

/-- WAKE_TIMER_EXPIRY (R25, R26): with PGn asserted the slot enters READING, and the engine is asked for the
descriptor read. -/
def execWakeTimerExpiry (n : SlotId) (s : State) : Host.Outcome State Fault Refusal :=
  let x := s.slot n
  if x.state = .powering ∧ x.wakeTimer.isSome = true ∧ x.pg = true then
    .next (((s.setSlot n { x.quiet with state := .reading, reason := .none }).notifyState n).startDescRead n)
  else .next s

/-- PROT_CHANGE (R9): the PROT level follows the line, with no notice. -/
def execProtChange (n : SlotId) (asserted : Bool) (s : State) : Host.Outcome State Fault Refusal :=
  .next (s.modSlot n fun x => { x with prot := asserted })

end Sys2Proof.Machine
end

