-- ==== Sys2Proof/Machine/Dispatch.lean ====
section
/-! DEFINITION. The dispatch of a command to its meaning: one arm per row of spec/opcode_table.json. -/

namespace Sys2Proof.Machine

def exec (i : Instr) (s : State) : Host.Outcome State Fault Refusal :=
  match i with
  | .detAsserted n => Sys2Proof.Machine.execDetAsserted n s
  | .detEdge n asserted => Sys2Proof.Machine.execDetEdge n asserted s
  | .settleTimerExpiry n => Sys2Proof.Machine.execSettleTimerExpiry n s
  | .probeTimerExpiry n senA senB => Sys2Proof.Machine.execProbeTimerExpiry n senA senB s
  | .pgAsserted n => Sys2Proof.Machine.execPgAsserted n s
  | .pgTimerExpiry n => Sys2Proof.Machine.execPgTimerExpiry n s
  | .wakeTimerExpiry n => Sys2Proof.Machine.execWakeTimerExpiry n s
  | .pgDeasserted n => Sys2Proof.Machine.execPgDeasserted n s
  | .removal n => Sys2Proof.Machine.execRemoval n s
  | .protChange n asserted => Sys2Proof.Machine.execProtChange n asserted s
  | .readTransaction n o => Sys2Proof.Machine.execReadTransaction n o s
  | .writeTransaction n o => Sys2Proof.Machine.execWriteTransaction n o s
  | .pollWaitExpiry n => Sys2Proof.Machine.execPollWaitExpiry n s
  | .poll n acked => Sys2Proof.Machine.execPoll n acked s
  | .retryWaitExpiry n => Sys2Proof.Machine.execRetryWaitExpiry n s
  | .stuckEpisode n cause atStart => Sys2Proof.Machine.execStuckEpisode n cause atStart s
  | .recoveryEnd n sclLow sdaLow => Sys2Proof.Machine.execRecoveryEnd n sclLow sdaLow s
  | .abortMark n close => Sys2Proof.Machine.execAbortMark n close s
  | .post r tail => Sys2Proof.Machine.execPost r tail s
  | .taken target index => Sys2Proof.Machine.execTaken target index s
  | .fetchStart => Sys2Proof.Machine.execFetchStart s
  | .recordReadDone record => Sys2Proof.Machine.execRecordReadDone record s
  | .completionWriteDone c => Sys2Proof.Machine.execCompletionWriteDone c s
  | .completionWriteFailed c => Sys2Proof.Machine.execCompletionWriteFailed c s
  | .noticeWriteDone => Sys2Proof.Machine.execNoticeWriteDone s
  | .noticeWriteFailed => Sys2Proof.Machine.execNoticeWriteFailed s
  | .createRequestRing => Sys2Proof.Machine.execCreateRequestRing s
  | .deleteRequestRing => Sys2Proof.Machine.execDeleteRequestRing s
  | .createCompletionRing => Sys2Proof.Machine.execCreateCompletionRing s
  | .deleteCompletionRing => Sys2Proof.Machine.execDeleteCompletionRing s
  | .setNoticeRing => Sys2Proof.Machine.execSetNoticeRing s
  | .configureSlot => Sys2Proof.Machine.execConfigureSlot s
  | .slotPowerOn => Sys2Proof.Machine.execSlotPowerOn s
  | .slotPowerOff => Sys2Proof.Machine.execSlotPowerOff s
  | .readSlotRecord => Sys2Proof.Machine.execReadSlotRecord s
  | .snapshotWriteDone ok => Sys2Proof.Machine.execSnapshotWriteDone ok s
  | .abort => Sys2Proof.Machine.execAbort s
  | .laneControlEnable => Sys2Proof.Machine.execLaneControlEnable s
  | .laneControlDisable => Sys2Proof.Machine.execLaneControlDisable s
  | .read n => Sys2Proof.Machine.execRead n s
  | .write n => Sys2Proof.Machine.execWrite n s
  | .compare n => Sys2Proof.Machine.execCompare n s
  | .refresh n => Sys2Proof.Machine.execRefresh n s
  | .lock n => Sys2Proof.Machine.execLock n s
  | .unlock n => Sys2Proof.Machine.execUnlock n s
  | .hostReadDone n data => Sys2Proof.Machine.execHostReadDone n data s
  | .hostWriteDone n ok => Sys2Proof.Machine.execHostWriteDone n ok s
  | .settleTimerExpiryLane => Sys2Proof.Machine.execSettleTimerExpiryLane s
  | .waitTimerExpiry n => Sys2Proof.Machine.execWaitTimerExpiry n s
  | .laneStrapChange fitted => Sys2Proof.Machine.execLaneStrapChange fitted s
  | .enable on intEnable => Sys2Proof.Machine.execEnable on intEnable s
  | .reset on intEnable => Sys2Proof.Machine.execReset on intEnable s
  | .intEnable on => Sys2Proof.Machine.execIntEnable on s
  | .resetBusyClear => Sys2Proof.Machine.execResetBusyClear s
  | .functionLevelReset => Sys2Proof.Machine.execFunctionLevelReset s
  | .devstatRead => Sys2Proof.Machine.execDevstatRead s
  | .registerWrite offset value => Sys2Proof.Machine.execRegisterWrite offset value s
  | .startRecordReadDone o => Sys2Proof.Machine.execStartRecordReadDone o s
  | .maskChange v masked => Sys2Proof.Machine.execMaskChange v masked s
  | .linkReset => Sys2Proof.Machine.execLinkReset s
  | .powerOnReset => Sys2Proof.Machine.execPowerOnReset s
  | .resetRelease => Sys2Proof.Machine.execResetRelease s

end Sys2Proof.Machine
end

