-- ==== Sys2Proof/Safety.lean ====
section
/-! DEFINITION. The terms in which the statements speak: what a run of the part must keep (the sound states of
the lane, the lock table, the tags, the slots, the lists and the buffers), and what of the poster a statement
reads. -/

namespace Sys2Proof.Machine

/-! ### What the poster holds -/

/-- The results of a completion ring that are handed over and not yet counted, in the order in which they
reached the poster (R94): the record being written, then those not yet issued. A moot write is none of them. -/
def CompletionRing.results (x : CompletionRing) : List Completion :=
  (match x.writing with
    | some (r, w) => if w.moot then [] else [r]
    | none => []) ++ x.queue

/-- Of a list of results, those that are handed over to completion ring `c`: none while the device is halted
(R99), else those of the request rings bound to it. -/
def State.goingTo (s : State) (c : CompRingId) (rs : List Completion) : List Completion :=
  if s.halted then [] else rs.filter fun r => (s.ring r.ring).bound = some c

/-- From `s` to `t` exactly these results have been handed over, in this order. -/
def State.handed (s t : State) (rs : List Completion) : Prop :=
  ∀ c, (t.comp c).results = (s.comp c).results ++ s.goingTo c rs

/-- From `s` to `t` these results have been handed over in this order, and after them only NOT_READY
completions of records that waited in a wait order (R92, R140). -/
def State.handedFirst (s t : State) (rs : List Completion) : Prop :=
  ∀ c, ∃ late, (t.comp c).results = (s.comp c).results ++ s.goingTo c rs ++ late
    ∧ ∀ r ∈ late, r.status = .notReady

/-- From `s` to `t` two groups of results have been handed over, each in its order and the two in an order left
open between them (R162), and after them only NOT_READY completions of records that waited in a wait order. -/
def State.handedMerged (s t : State) (a b : List Completion) : Prop :=
  ∃ rs, rs.Perm (a ++ b) ∧ a.Sublist rs ∧ b.Sublist rs ∧ s.handedFirst t rs

/-- A SLOT_STATE notice of slot `n` is being written or stands in its dirty flag (R167, R168). -/
def State.stateNoticed (s : State) (n : SlotId) : Prop :=
  ((s.dirtySlot n).set = true ∧ (s.dirtySlot n).stateKind = true)
    ∨ ∃ kind mask w, s.notices.writing = some (.slot n true kind mask, w)

/-- A DESCRIPTOR_CHANGED notice of slot `n` that reports these changes is being written or stands in its dirty
flag (R76, R167, R168). -/
def State.changeNoticed (s : State) (n : SlotId) (mask : BitVec 7) : Prop :=
  ((s.dirtySlot n).set = true ∧ (s.dirtySlot n).changedKind = true
      ∧ (s.dirtySlot n).mask &&& mask = mask)
    ∨ ∃ kind m w, s.notices.writing = some (.slot n kind true m, w) ∧ m &&& mask = mask

/-- A RING_FAULT notice of ring `r` with this cause and head is being written or stands as its flag. -/
def State.faultNoticed (s : State) (r : RingId) (cause : FaultCause) (head : Nat) : Prop :=
  (s.dirtyRing r).fault = some (cause, head)
    ∨ ∃ w, s.notices.writing = some (.ring r cause head, w)

/-- From `s` to `t` this vector, and no other, has been raised (R171, R172): its message left, or its flag is
pending. -/
def State.raises (s t : State) (v : Option VectorId) : Prop :=
  ∀ u, if v = some u then
      (if s.intEnable = true ∧ s.vecMasked u = false then
        t.vecPending u = false ∧ t.msgCount u = s.msgCount u + 1
      else t.vecPending u = true ∧ t.msgCount u = s.msgCount u)
    else t.vecPending u = s.vecPending u ∧ t.msgCount u = s.msgCount u

/-- The ring's entry after its staged record with this tag has been taken (R91). -/
def RequestRing.taken (x : RequestRing) (tag : Half) : RequestRing :=
  { x with
    head := if x.head + 1 < x.size then x.head + 1 else 0
    staging := .empty, tags := x.tags ++ [tag] }

/-- From `u` to `t` the control unit has become free, and has taken the record that stands valid in the staging
place of ring 0, if one does (R91, R102). -/
def State.freed (u t : State) : Prop :=
  match (u.ring 0).staging with
  | .holding q =>
    t = { u.setRing 0 ((u.ring 0).taken q.tag) with
      control := some { req := q, ringHead := ((u.ring 0).taken q.tag).head } }
  | .empty | .fetching | .refused => t = { u with control := none }

/-! ### Sound states -/

/-- The lane arbiter and its outputs (R153 to R155). -/
def Lane.Sound (l : Lane) : Prop :=
  (l.len = true ↔ l.state = .held)
    ∧ (l.state = .held → l.holder = some l.lsel ∧ l.holderRing.isSome = true)
    ∧ (l.state ≠ .held → l.holder = none ∧ l.holderRing = none)
    ∧ (l.state = .disabled ∨ l.state = .free → l.waiters = [])
    ∧ (l.settleTimer.isSome = true ↔ l.state = .settling)
    ∧ l.waiters.length ≤ 8
    ∧ (l.waiters.map Waiter.slot).Nodup
    ∧ ∀ w ∈ l.waiters, l.holder ≠ some w.slot

/-- The lane is sound, the lane role of each slot mirrors the holder and the waiter list, and the holder and
every waiter are READY and lane-capable (R11, R154, R155). -/
def State.LaneSound (s : State) : Prop :=
  s.lane.Sound
    ∧ ∀ n, ((s.slot n).laneRole = .holder ↔ s.lane.holder = some n)
      ∧ ((s.slot n).laneRole = .waiter ↔ ∃ w ∈ s.lane.waiters, w.slot = n)
      ∧ ((s.slot n).laneRole ≠ .none →
        (s.slot n).state = .ready ∧ (s.slot n).desc.laneWidth.isSome = true)

/-- The ring is ACTIVE or FAULTED: it may own lock entries (R142). -/
def RequestRing.Owning (x : RequestRing) : Prop := x.state = .active ∨ x.state = .faulted

/-- The lock table (R142), with what keeps it so: only entries of owning rings wait in a pending list, and
only an ACTIVE ring stages a valid record. -/
def State.LocksSound (s : State) : Prop :=
  s.locks.length ≤ 16
    ∧ s.locks.Pairwise (fun a b => a.slot = b.slot →
        ¬ (a.start < b.start + b.length ∧ b.start < a.start + a.length))
    ∧ (∀ l ∈ s.locks, (s.slot l.slot).state.inserted = true ∧ (s.ring l.owner).Owning)
    ∧ (∀ n, ∀ e ∈ (s.engine n).pendingList, (s.ring e.ring).Owning)
    ∧ ∀ r q, (s.ring r).staging = .holding q → (s.ring r).state = .active

/-- The outstanding tags of a request ring (R89), with the tag of its staged record. -/
def RequestRing.TagsSound (x : RequestRing) : Prop :=
  x.tags.Nodup ∧ ∀ q, x.staging = .holding q → q.tag ∉ x.tags

/-- A slot's supply, reason, timers and probe follow its state (R1, R3, R17). -/
def Slot.Sound (x : Slot) : Prop :=
  x.pwren = x.state.powered
    ∧ (x.reason = .none ↔ x.state ≠ .held ∧ x.state ≠ .fault)
    ∧ (x.settleTimer.isSome = true ↔ x.state = .settling)
    ∧ (x.probe.isSome = true ↔ x.state = .probing)
    ∧ (x.pgTimer.isSome = true ∨ x.wakeTimer.isSome = true → x.state = .powering)
    ∧ (x.prb = false → x.state = .probing)

/-- Every slot is sound, a request is in execution only in READY, and a descriptor read with no request only
in READING (R1, R2, R26). -/
def State.SlotsSound (s : State) : Prop :=
  ∀ n, (s.slot n).Sound
    ∧ ((s.engine n).exec.isSome = true → (s.slot n).state = .ready)
    ∧ ((s.engine n).descRead.isSome = true → (s.engine n).exec = none → (s.slot n).state = .reading)

/-- What a function reset still owes a slot (R15, R58) stands only while the device is RESETTING, and with no lane
role, since the reset has cleared the lane (R180). -/
def State.ResetsSound (s : State) : Prop :=
  ∀ n, (s.slot n).resetDue.isSome = true → s.condition = .resetting ∧ (s.slot n).laneRole = .none

/-- Every ring in the wait order of a slot stages a valid record for that slot, and stands there once (R92). Ring
0 waits in none, since its records go to the control unit (R91), and a ring whose record is being read stages none
yet (R86). -/
def State.WaitOrdersSound (s : State) : Prop :=
  (∀ n, (s.waitOrder n).Nodup
    ∧ ∀ r ∈ s.waitOrder n, r ≠ 0 ∧ ∃ q, (s.ring r).staging = .holding q ∧ q.slot = n)
  ∧ ∀ f, s.recordRead = some f → f.moot = false → (s.ring f.ring).staging = .fetching

/-- Every pending list has its four places at most (R121). -/
def State.ListsSound (s : State) : Prop :=
  ∀ n, (s.engine n).pendingList.length ≤ 4

/-- Every data buffer is in its canonical form: positions 0 to 2047, rising, no entry of value 0. -/
def State.BuffersSound (s : State) : Prop := ∀ n, Buffer.wf (s.engine n).buffer = true

/-! ### Where the outstanding requests are (R85, R89, R93) -/

/-- The tag of a deferred control request. -/
def Deferred.tag : Deferred → Half
  | .powerOff _ tag _ | .deleteRing _ tag _ _ | .abort _ _ tag _ => tag

/-- Two deferred control requests wait for the same event: the same slot's exit, the same ring's drain, the
same target's completion (R101). -/
def Deferred.sameSubject : Deferred → Deferred → Prop
  | .powerOff n _ _, .powerOff m _ _ => n = m
  | .deleteRing r _ _ _, .deleteRing q _ _ _ => r = q
  | .abort r t _ _, .abort q u _ _ => r = q ∧ t = u
  | _, _ => False

/-- The entries of ring `r` on one engine: waiting, held over, in execution (R121, R124). -/
def Engine.entriesOf (e : Engine) (r : RingId) : List Entry :=
  (e.pendingList ++ e.heldOver ++ (e.exec.map Execution.entry).toList).filter fun q => q.ring = r

/-- The tags of the requests of ring `r` that the part holds between their acceptance and the writing of their
completion: on the engines, waiting for the lane, in the control unit, and as results handed over. -/
def State.requestsOf (s : State) (r : RingId) : List Half :=
  (allSlots.flatMap fun n => ((s.engine n).entriesOf r).map Entry.tag)
    ++ (s.lane.waiters.filter fun w => w.ring = r).map Waiter.tag
    ++ (if r = 0 then (s.control.map fun c => c.req.tag).toList ++ s.deferred.map Deferred.tag else [])
    ++ allCompRings.flatMap fun c =>
      ((s.comp c).results.filter fun x => x.ring = r && !x.refused).map Completion.tag

/-- How many refusals of ring `r` are handed over and not yet written (R90). -/
def State.refusalsOf (s : State) (r : RingId) : Nat :=
  (allCompRings.map fun c =>
    ((s.comp c).results.filter fun x => x.ring = r && x.refused).length).sum

/-- The reservations of completion ring `c` that request ring `r` has standing (R85): one for each outstanding
request, and one for a record being fetched, staged or refused. -/
def State.reservedFor (s : State) (c : CompRingId) (r : RingId) : Nat :=
  if (s.ring r).bound = some c then
    (s.ring r).tags.length + (if (s.ring r).staging = .empty then 0 else 1)
  else 0

/-- While the device is not halted, every outstanding tag belongs to exactly one request that the part holds
(R89, R93), every staging place to its fetch, record or refusal (R87, R90), and every reservation of a completion
ring to one of these (R85), with what keeps it so. -/
def State.RequestsSound (s : State) : Prop :=
  s.condition ≠ .halted →
    (∀ r, (s.ring r).TagsSound ∧ (s.ring r).tags.Perm (s.requestsOf r)
      ∧ s.refusalsOf r = (if (s.ring r).staging = .refused then 1 else 0)
      ∧ ((s.ring r).staging = .fetching ↔
        ∃ f, s.recordRead = some f ∧ f.moot = false ∧ f.ring = r)
      ∧ ((s.ring r).state = .absent ↔ (s.ring r).bound = none)
      ∧ ((s.ring r).state = .absent → (s.ring r).staging = .empty ∧ (s.ring r).tags = [])
      ∧ (∀ c, (s.ring r).bound = some c → (s.comp c).active = true)
      ∧ (s.condition ≠ .running → (s.ring r).state = .absent)
      ∧ ((s.deferredDelete r).isSome = true → (s.ring r).state = .draining))
    ∧ (∀ c, (s.comp c).active = true → (s.comp c).reserved = (allRings.map (s.reservedFor c)).sum)
    ∧ (∀ c, ∀ x ∈ (s.comp c).results, (s.ring x.ring).bound = some c)
    ∧ (∀ n, (s.engine n).closing = true → (s.engine n).exec = none)
    ∧ s.deferred.Pairwise fun a b => ¬ a.sameSubject b

/-- The counts of a completion ring (R81, R85): as many entries unconsumed as lie between the two indices, and
with the reservations at most one fewer than the ring has places. -/
def CompletionRing.CountsSound (x : CompletionRing) : Prop :=
  x.active = true →
    x.unconsumed + x.reserved ≤ x.size - 1
      ∧ x.unconsumed = (x.produce + x.size - x.consumed) % x.size
      ∧ x.produce < max 1 x.size ∧ x.consumed < max 1 x.size

/-! ### What the poster writes (R94, R167, R169) -/

/-- A completion ring is posting (R82, R94): no result waits while no record write is in progress, and the write in
progress, but for a moot one, is of an ACTIVE ring and carries the bytes of its result, under the phase in force, to
base + 16 × produce index. -/
def CompletionRing.Posting (x : CompletionRing) : Prop :=
  match x.writing with
  | none => x.queue = []
  | some (r, w) => w.moot = false →
      x.active = true ∧ w.address = x.base + BitVec.ofNat 64 (16 * x.produce) ∧ w.bytes = r.bytes x.phase

/-- While the device is not halted, every completion ring is posting. -/
def State.PosterSound (s : State) : Prop := s.condition ≠ .halted → ∀ c, (s.comp c).Posting

/-- No dirty flag is set, of a slot or of a ring (R168). -/
def State.noneDirty (s : State) : Prop :=
  (∀ n, (s.dirtySlot n).set = false) ∧ ∀ r, (s.dirtyRing r).fault = none

/-- While the device is not halted, a notice record write in progress, but for a moot one, goes to the place of an
ACTIVE ring that is written next (R167), and no flag stands while a record may be written (R169). -/
def State.NoticesSound (s : State) : Prop :=
  s.condition ≠ .halted →
    match s.notices.writing with
    | none => s.notices.active = true → s.notices.unconsumed < s.notices.size - 1 → s.noneDirty
    | some (_, w) => w.moot = false → s.notices.active = true
        ∧ w.address = s.notices.base + BitVec.ofNat 64 (16 * s.notices.produce)

/-- The bus work that a reset or halt left is always at a phase that an event of the bus ends (R40, R58): an engine
being ended is neither in IDLE nor in RETRY_WAIT, a piece is current wherever one is sent or polled and none where a
byte is received, and a slot waits for a function reset's action only while its engine is being ended. -/
def State.EndingsSound (s : State) : Prop :=
  ∀ n, ((s.engine n).closing = true →
      (s.condition = .halted ∨ s.condition = .resetting)
        ∧ (s.engine n).phase ≠ .idle ∧ (s.engine n).phase ≠ .retryWait)
    ∧ ((s.engine n).phase = .sending ∨ (s.engine n).phase = .pollWait ∨ (s.engine n).phase = .polling →
      (s.engine n).piece.isSome = true)
    ∧ ((s.engine n).phase = .receiving → (s.engine n).piece = none)
    ∧ ((s.slot n).resetDue.isSome = true → (s.engine n).closing = true)

end Sys2Proof.Machine
end

