-- ==== Sys2Proof/Certificates/Slice0/Obligations.lean ====
section
/-! DEFINITION. The statements about the ASC-418 for the provers. -/

open Sys2Proof Sys2Proof.Machine

/-! ### The queue -/

/-- A step takes the command at the front of the queue and runs it on the queue's rest. -/
def Obligations.StepRunsCommandAtFront : Prop :=
  ∀ (c : Instr) (rest : List Instr) (s : State),
    step { s with pending := c :: rest } = exec c { s with pending := rest }

/-- No command touches the queue of the commands that wait. -/
def Obligations.CommandsLeaveQueueAlone : Prop :=
  ∀ (c : Instr) (s t : State), exec c s = .next t → t.pending = s.pending

/-! ### Reset and sound states -/

/-- The values the manual gives every block after power-on (R14, R17, R40, R80, R81, R101, R121, R142, R153,
R168, R173, R175). The line levels, the poll limit in use and the held-low readings are log entries 8 and 25 and
not claimed here. The model's own choice in it: log entry 17 (startMoot, a field of the model). -/
def Obligations.ResetLeavesStatedValues : Prop :=
  let s := State.reset
  (s.condition = .off ∧ s.intEnable = false ∧ s.haltCause = .none ∧ s.postError = false
    ∧ s.startLo = 0 ∧ s.startHi = 0 ∧ s.startCopy = none ∧ s.startRead = none ∧ s.startMoot = 0)
  ∧ (∀ n, (s.slot n).state = .empty ∧ (s.slot n).reason = .none ∧ (s.slot n).generation = 0
    ∧ (s.slot n).sense = none ∧ (s.slot n).supplyClass = .none ∧ (s.slot n).desc.state = .none
    ∧ (s.slot n).desc.capacity = 2048 ∧ (s.slot n).desc.pageSize = 8 ∧ (s.slot n).desc.span = 256
    ∧ (s.slot n).desc.closed = false ∧ (s.slot n).desc.identity = none
    ∧ (s.slot n).desc.protectEnd = none ∧ (s.slot n).desc.powerBudget = none
    ∧ (s.slot n).desc.laneWidth = none ∧ (s.slot n).desc.label = none
    ∧ (s.slot n).desc.unknownCount = none
    ∧ (s.slot n).config = { autoPower := true, supply := ⟨true, true, true, true⟩, speed := .khz100
                            pollLimit := 40, settleSteps := 5, pgLimit := 100, retainPower := false }
    ∧ (s.slot n).stuck = 0 ∧ (s.slot n).laneRole = .none ∧ (s.slot n).settleTimer = none
    ∧ (s.slot n).probe = none ∧ (s.slot n).pgTimer = none ∧ (s.slot n).wakeTimer = none
    ∧ (s.slot n).origin = .auto ∧ (s.slot n).pgSeen = false ∧ (s.slot n).pwren = false
    ∧ (s.slot n).pwrsel = 0 ∧ (s.slot n).prb = true)
  ∧ (∀ n, (s.engine n).phase = .idle ∧ (s.engine n).attempt = 1 ∧ (s.engine n).pollCounter = 0
    ∧ (s.engine n).stuckCounter = 0 ∧ (s.engine n).piece = none ∧ (s.engine n).block = 0
    ∧ (s.engine n).speed = .khz100 ∧ (∀ a, Buffer.read (s.engine n).buffer a = 0)
    ∧ (s.engine n).scl = .released ∧ (s.engine n).sda = .released
    ∧ (s.engine n).pendingList = [] ∧ (s.engine n).heldOver = [] ∧ (s.engine n).exec = none)
  ∧ (∀ r, (s.ring r).state = .absent ∧ (s.ring r).base = 0 ∧ (s.ring r).size = 0
    ∧ (s.ring r).head = 0 ∧ (s.ring r).tail = 0 ∧ (s.ring r).bound = none
    ∧ (s.ring r).staging = .empty ∧ (s.ring r).tags = [])
  ∧ s.roundRobin = 0 ∧ (∀ n, s.waitOrder n = [])
  ∧ (∀ c, (s.comp c).active = false ∧ (s.comp c).produce = 0 ∧ (s.comp c).consumed = 0
    ∧ (s.comp c).unconsumed = 0 ∧ (s.comp c).reserved = 0 ∧ (s.comp c).phase = true)
  ∧ (s.notices.active = false ∧ s.notices.produce = 0 ∧ s.notices.consumed = 0
    ∧ s.notices.unconsumed = 0 ∧ s.notices.phase = true)
  ∧ s.control = none ∧ s.deferred = [] ∧ s.locks = []
  ∧ (s.lane.state = .disabled ∧ s.lane.holder = none ∧ s.lane.holderRing = none
    ∧ s.lane.waiters = [] ∧ s.lane.settleTimer = none ∧ s.lane.settleInterval = 2
    ∧ s.lane.lsel = 0 ∧ s.lane.len = false)
  ∧ (∀ n, s.dirtySlot n = { set := false, stateKind := false, changedKind := false, mask := 0 })
  ∧ (∀ r, (s.dirtyRing r).fault = none)
  ∧ ∀ v, s.vecPending v = false ∧ s.vecMasked v = true

/-- The state after reset is sound in every respect that the statements below keep. -/
def Obligations.ResetStateIsSound : Prop :=
  State.reset.LaneSound ∧ State.reset.LocksSound ∧ State.reset.RequestsSound
    ∧ State.reset.SlotsSound ∧ State.reset.ListsSound ∧ State.reset.BuffersSound
    ∧ State.reset.ResetsSound ∧ State.reset.WaitOrdersSound
    ∧ State.reset.PosterSound ∧ State.reset.NoticesSound ∧ State.reset.EndingsSound
    ∧ ∀ c, (State.reset.comp c).CountsSound

/-- Every step keeps the lane sound: LEN exactly in HELD with LSEL naming the holder, no holder elsewhere, no
waiter in DISABLED or FREE, the settle timer exactly in SETTLING, and at most 8 waiters, no slot twice and never
the holder; and with sound slots the lane roles mirror the holder and the waiter list, each of them a READY,
lane-capable slot. What a function reset still owes a slot stands only in RESETTING and with no lane role, and
every step keeps that too. -/
def Obligations.LaneStaysSound : Prop :=
  ∀ s t : State, step s = .next t →
    (s.lane.Sound → t.lane.Sound)
    ∧ (s.SlotsSound → s.ResetsSound → s.LaneSound → t.LaneSound)
    ∧ (s.SlotsSound → s.RequestsSound → s.LaneSound → s.ResetsSound → t.ResetsSound)

/-- Every step keeps the lock table sound: at most 16 entries, none of one slot overlapping, each of a slot with
an accepted module and of an ACTIVE or FAULTED ring. -/
def Obligations.LockTableStaysSound : Prop :=
  ∀ s t : State, s.LocksSound → step s = .next t → t.LocksSound

/-- Every step keeps the outstanding tags of each ring distinct. -/
def Obligations.OutstandingTagsStayDistinct : Prop :=
  ∀ s t : State, (∀ r, (s.ring r).TagsSound) → step s = .next t → ∀ r, (t.ring r).TagsSound

/-- Every step of a device that is not halted keeps every outstanding request in exactly one place, the pending
lists, the held-over lists, in execution, the lane, the control unit or the poster, and every reservation of a
completion ring with one request or one staging place (R85, R89, R90, R93). -/
def Obligations.RequestsStayAccounted : Prop :=
  ∀ s t : State, s.SlotsSound → s.RequestsSound → step s = .next t → t.RequestsSound

/-- Every step keeps each slot's supply, reason, timers and probe as its state asks: PWRENn exactly in POWERING,
READING and READY, a reason exactly in HELD and FAULT. -/
def Obligations.SuppliesFollowSlotStates : Prop :=
  ∀ s t : State, s.SlotsSound → step s = .next t → t.SlotsSound

/-- Every step keeps each pending list at 4 entries at most, where every ring of a wait order stages a record for
that slot; every step keeps the wait orders so, every data buffer in its canonical form, and, where every
reservation has its request, the counts of every ACTIVE completion ring: as many entries unconsumed as lie between
the two indices, and with the reservations at most one fewer than the ring has places. -/
def Obligations.ListsAndBuffersStaySound : Prop :=
  ∀ s t : State, step s = .next t →
    (s.WaitOrdersSound → s.ListsSound → t.ListsSound)
      ∧ (s.RequestsSound → s.WaitOrdersSound → t.WaitOrdersSound)
      ∧ (s.BuffersSound → t.BuffersSound)
      ∧ (s.SlotsSound → s.RequestsSound → (∀ c, (s.comp c).CountsSound) → ∀ c, (t.comp c).CountsSound)

/-- A slot's generation changes only when its insertion is accepted, by one and from 65535 to 1, or at a
link or power-on reset, to 0. -/
def Obligations.GenerationChangesOnlyAtAcceptance : Prop :=
  ∀ (c : Instr) (s t : State) (n : SlotId), exec c s = .next t →
    (t.slot n).generation ≠ (s.slot n).generation →
      (c = .settleTimerExpiry n ∧ (s.slot n).state = .settling ∧ (s.slot n).det = true
        ∧ (t.slot n).state = .probing
        ∧ (t.slot n).generation
          = if (s.slot n).generation = 65535 then 1 else (s.slot n).generation + 1)
      ∨ ((c = .linkReset ∨ c = .powerOnReset) ∧ (t.slot n).generation = 0)

/-- CONFIGURE_SLOT settings in range survive their 32-bit layout, and a 32-bit word with bit 3 clear survives
the settings. -/
def Obligations.SettingsRoundTrip : Prop :=
  (∀ c : SlotConfig, c.inRange = true → SlotConfig.decode c.encode = c ∧ c.encode < 2 ^ 32)
  ∧ ∀ w : Nat, w < 2 ^ 32 → w.testBit 3 = false → (SlotConfig.decode w).encode = w

/-! ### Registers and the device -/


/-- Setting INT_ENABLE sends the message of every pending vector that is not masked, and unmasking a pending
vector with INT_ENABLE set sends its own; nothing else changes (R172). The message counts are the model's record
of the messages sent (log entry 12). -/
def Obligations.EnablingSendsPendingMessages : Prop :=
  (∀ (s : State) (ie : Bool), s.inReset = false → s.condition ≠ .resetting →
    ∃ t, exec (.intEnable ie) s = .next t
      ∧ t = { s with intEnable := ie, vectorPending := t.vectorPending, messagesSent := t.messagesSent }
      ∧ ∀ v, (if s.vecPending v = true ∧ ie = true ∧ s.vecMasked v = false then
          t.vecPending v = false ∧ t.msgCount v = s.msgCount v + 1
        else t.vecPending v = s.vecPending v ∧ t.msgCount v = s.msgCount v))
  ∧ ∀ (s : State) (v : VectorId) (m : Bool), s.inReset = false →
    ∃ t, exec (.maskChange v m) s = .next t
      ∧ t = { s with
        vectorMasked := t.vectorMasked, vectorPending := t.vectorPending
        messagesSent := t.messagesSent }
      ∧ t.vecMasked v = m
      ∧ (if m = false ∧ s.vecPending v = true ∧ s.intEnable = true then
          t.vecPending v = false ∧ t.msgCount v = s.msgCount v + 1
        else t.vecPending v = s.vecPending v ∧ t.msgCount v = s.msgCount v)
      ∧ ∀ u, u ≠ v → t.vecMasked u = s.vecMasked u ∧ t.vecPending u = s.vecPending u
        ∧ t.msgCount u = s.msgCount u


/-- IDENT, DEVCTL, START_LO and START_HI read as R189 lays them out, and every other offset but DEVSTAT's
reads 0 (R190). A read of DEVSTAT reports READY, HALTED, the halt cause, POST_ERROR and RESET_BUSY in the bits of
R189, and clears POST_ERROR alone (R177). The model's own choice in it: log entry 12 (the field that holds the
answer). -/
def Obligations.RegistersReadAsLaidOut : Prop :=
  (∀ s : State,
      (s.readRegister 0x00).toNat
          = 0xA418 + 0x01 * 2 ^ 16 + 8 * 2 ^ 24 + (if s.laneFitted then 2 ^ 28 else 0)
      ∧ ((s.readRegister 0x04).getLsbD 0 = true ↔
          s.condition = .starting ∨ s.condition = .running ∨ s.condition = .halted)
      ∧ (s.readRegister 0x04).getLsbD 2 = s.intEnable
      ∧ (∀ i, i ≠ 0 → i ≠ 2 → (s.readRegister 0x04).getLsbD i = false)
      ∧ s.readRegister 0x0C = s.startLo ∧ s.readRegister 0x10 = s.startHi
      ∧ ∀ a, a ∉ [0x00, 0x04, 0x08, 0x0C, 0x10] → s.readRegister a = 0)
  ∧ ∀ s : State, s.inReset = false →
    ∃ t, exec .devstatRead s = .next t
      ∧ t = { s with postError := false, readData := t.readData }
      ∧ (t.readData.getLsbD 0 = true ↔ s.condition = .running)
      ∧ (t.readData.getLsbD 1 = true ↔ s.condition = .halted)
      ∧ (t.readData.toNat / 16 % 4 = match s.haltCause with
          | .none => 0 | .startRecord => 1 | .controlFetch => 2 | .postWrite => 3)
      ∧ t.readData.getLsbD 8 = s.postError
      ∧ (t.readData.getLsbD 9 = true ↔ s.condition = .resetting)
      ∧ ∀ i, i ∉ [0, 1, 4, 5, 8, 9] → t.readData.getLsbD i = false

/-- A register write acts by its offset (R175, R189, R190): START_LO and START_HI store all 32 bits, DEVCTL, POST
and TAKEN act as their own rows with the fields their bits hold, and every other write is disregarded. The writes
of DEVCTL act by R176: ENABLE with RESET 0, RESET with RESET 1, INT_ENABLE with ENABLE as it stands. The model's
own choice in it: log entry 26 (INT_ENABLE as a write of DEVCTL). -/
def Obligations.RegisterWriteActsByOffset : Prop :=
  (∀ (s : State) (en rst ie : Bool), s.inReset = false →
     exec (if rst then .reset en ie else .enable en ie) s = .next
       (if s.condition = .resetting then s
        else if rst then s.functionReset
        else if s.condition = .off then
          (if en then ({ s with intEnable := ie }.start).deliverAll
           else { s with intEnable := ie }.deliverAll)
        else if en then { s with intEnable := ie }.deliverAll
        else s.functionReset)
     ∧ exec (.intEnable ie) s
       = exec (.enable (s.condition = .starting ∨ s.condition = .running ∨ s.condition = .halted) ie) s)
  ∧ ∀ (s : State) (v : Word), s.inReset = false →
    exec (.registerWrite 0x04 v) s
      = exec (if v.getLsbD 1 then .reset (v.getLsbD 0) (v.getLsbD 2)
          else .enable (v.getLsbD 0) (v.getLsbD 2)) s
    ∧ exec (.registerWrite 0x0C v) s = .next { s with startLo := v }
    ∧ exec (.registerWrite 0x10 v) s = .next { s with startHi := v }
    ∧ exec (.registerWrite 0x14 v) s
      = exec (.post (Fin.ofNat 8 (v.toNat % 8)) (BitVec.ofNat 16 (v.toNat / 2 ^ 16))) s
    ∧ exec (.registerWrite 0x18 v) s
      = exec (.taken (Fin.ofNat 8 (v.toNat % 8)) (BitVec.ofNat 16 (v.toNat / 2 ^ 16))) s
    ∧ ∀ a, a ∉ [0x04, 0x0C, 0x10, 0x14, 0x18] → exec (.registerWrite a v) s = .next s

/-- ENABLE in OFF enters STARTING (R178): a 64-byte aligned start address has its record read, a misaligned one
halts the device with cause START_RECORD. -/
def Obligations.EnableStartsOrHalts : Prop :=
  ∀ s : State, s.inReset = false → s.condition = .off → (∀ n, (s.engine n).exec = none) →
    s.intEnable = false →
    exec (.enable true false) s = .next
      (if (2 ^ 32 * s.startHi.toNat + s.startLo.toNat) % 64 = 0 then
        { s with condition := .starting
                 startRead := some (BitVec.ofNat 64 (2 ^ 32 * s.startHi.toNat + s.startLo.toNat)) }
       else { s with condition := .halted, haltCause := .startRecord })

/-- The start record (R178, R183): sizes 2 to 1024, aligned bases and reserved bytes 0 make the device RUNNING
with completion ring 0 and request ring 0 ACTIVE as the record says; anything else, or a failed read, halts it with
cause START_RECORD. The outcome of a read that a function reset made moot is disregarded. The model's own choice in
it: log entry 17 (moot reads are counted). -/
def Obligations.StartRecordAcceptedOrHalts : Prop :=
  (∀ (s : State) (record : Option (Vector Byte 32)),
    exec (.startRecordReadDone ⟨true, record⟩) s = .next { s with startMoot := s.startMoot - 1 })
  ∧ ∀ (s : State) (a : HostAddr) (record : Option (Vector Byte 32)),
    s.condition = .starting → s.startRead = some a → (∀ n, (s.engine n).exec = none) →
    let field := fun (l : Vector Byte 32) (i k : Nat) =>
      ((List.range k).map fun j => 256 ^ j * (l.toList.getD (i + j) 0).toNat).sum
    let accepted := fun (l : Vector Byte 32) =>
      (2 ≤ field l 8 2 ∧ field l 8 2 ≤ 1024) ∧ (2 ≤ field l 24 2 ∧ field l 24 2 ≤ 1024)
        ∧ field l 0 8 % 64 = 0 ∧ field l 16 8 % 64 = 0 ∧ field l 10 6 = 0 ∧ field l 26 6 = 0
    exec (.startRecordReadDone ⟨false, record⟩) s = .next
      (match record with
      | some l =>
        if accepted l then
          { (s.setComp 0 { (s.comp 0) with
              active := true, base := BitVec.ofNat 64 (field l 16 8), size := field l 24 2, produce := 0
              consumed := 0, phase := true, unconsumed := 0, reserved := 0, vector := some 0
              queue := [] }).setRing 0
              { state := .active, base := BitVec.ofNat 64 (field l 0 8), size := field l 8 2, head := 0
                tail := 0, bound := some 0, staging := .empty, tags := [] } with
            condition := .running, startRead := none
            startCopy := some
              { ringBase := BitVec.ofNat 64 (field l 0 8), ringSize := field l 8 2
                compBase := BitVec.ofNat 64 (field l 16 8), compSize := field l 24 2 } }
        else { s with condition := .halted, haltCause := .startRecord, startRead := none }
      | none => { s with condition := .halted, haltCause := .startRecord, startRead := none })

/-- The event that begins a function reset (R172, R178, R180): what it leaves of the host-facing state, a start
record read in flight moot, and what it keeps of every slot. A function-level reset also sets every mask
indication, and in RESETTING that alone (log entry 11). The model's own choice in it: log entry 17 (moot reads are
counted). -/
def Obligations.FunctionResetClearsHostSide : Prop :=
  ∀ (s : State) (en ie : Bool), s.inReset = false →
   (s.condition = .resetting →
    exec .functionLevelReset s = .next { s with vectorMasked := Vector.replicate 5 true })
   ∧ (s.condition ≠ .resetting →
    ∃ t, exec (.reset en ie) s = .next t ∧ exec .functionLevelReset s
        = .next { t with vectorMasked := Vector.replicate 5 true }
      ∧ ((s.condition ≠ .off) → exec (.enable false ie) s = .next t)
      ∧ (t.condition = .resetting ∧ t.intEnable = false ∧ t.haltCause = .none ∧ t.postError = false
        ∧ t.startLo = s.startLo ∧ t.startHi = s.startHi ∧ t.startCopy = none
        ∧ t.startRead = none ∧ t.startMoot = s.startMoot + (if s.startRead = none then 0 else 1)
        ∧ t.laneFitted = s.laneFitted ∧ t.vectorMasked = s.vectorMasked)
      ∧ (∀ r, t.ring r = { state := .absent, base := 0, size := 0, head := 0, tail := 0, bound := none
                           staging := .empty, tags := [] })
      ∧ t.roundRobin = 0 ∧ (∀ n, t.waitOrder n = [])
      ∧ (∀ c, (t.comp c).active = false ∧ (t.comp c).unconsumed = 0 ∧ (t.comp c).reserved = 0
        ∧ (t.comp c).produce = 0 ∧ (t.comp c).consumed = 0 ∧ (t.comp c).phase = true
        ∧ (t.comp c).results = [])
      ∧ (t.notices.active = false ∧ t.notices.unconsumed = 0 ∧ t.notices.phase = true)
      ∧ t.control = none ∧ t.deferred = [] ∧ t.locks = []
      ∧ (t.lane.state = .disabled ∧ t.lane.holder = none ∧ t.lane.waiters = []
        ∧ t.lane.settleTimer = none ∧ t.lane.settleInterval = 2 ∧ t.lane.len = false ∧ t.lane.lsel = 0)
      ∧ (∀ r, (t.dirtyRing r).fault = none) ∧ (∀ v, t.vecPending v = false)
      ∧ ∀ n, (t.slot n).generation = (s.slot n).generation ∧ (t.slot n).config = (s.slot n).config
        ∧ (t.slot n).desc = (s.slot n).desc ∧ (t.slot n).sense = (s.slot n).sense
        ∧ (t.slot n).supplyClass = (s.slot n).supplyClass ∧ (t.slot n).laneRole = .none
        ∧ (t.engine n).pendingList = [] ∧ (t.engine n).heldOver = [] ∧ (t.engine n).exec = none
        ∧ (t.engine n).buffer = (s.engine n).buffer)

/-- How a function reset treats a slot (R15, R58): a slot out of power is left as it is; a powered one with
nothing on its bus is kept, has its descriptor read again or is restarted at PROBING, by its state and
retain_power; one with a transaction, a poll or a recovery on its bus keeps its state and supply until the
engine has ended it. An engine that a reset or halt left so ends by one event of its bus (R47, R58): the end of its
read or write transaction, the poll that confirms its piece or passes the limit, the end of its recovery. It is then
in IDLE with no work, in the values of R40 at a function reset, the bytes of its read in the data buffer; a poll
refused within the limit goes on waiting. With that end comes the action the reset owes the slot (R15), or the exit of
a SLOT_POWER OFF that stands in a halt (R37); a recovery in READING, or with the stuck count at 2 in READY, gives
FAULT(BUS_STUCK) in their place (R26, R33). Nothing completes. Every step keeps an engine being ended at a phase that
such an event ends, and what is owed to a slot only while its engine is being ended. The model's own choice in it: log
entries 24 (a standing OFF in a halt), 25 and 27 (the bus values after a transaction), 29 (a count that stops at 2) and
31 (an engine still ending after a halt). -/
def Obligations.FunctionResetTreatsSlotByState : Prop :=
  (∀ (s : State) (n : SlotId) (en ie : Bool), s.inReset = false → s.condition ≠ .resetting →
    ∃ t, exec (.reset en ie) s = .next t ∧
      let x := s.slot n
      let e := s.engine n
      (x.state.powered = false → (t.slot n).state = x.state ∧ (t.slot n).reason = x.reason
        ∧ (t.slot n).stuck = x.stuck)
      ∧ (x.state.powered = true → e.phase ≠ .idle → e.phase ≠ .retryWait →
        (t.slot n).state = x.state ∧ (t.slot n).pwren = x.pwren ∧ (t.engine n).phase = e.phase
          ∧ (t.engine n).closing = true ∧ (t.slot n).resetDue = some x.config.retainPower)
      ∧ (e.phase = .idle ∨ e.phase = .retryWait →
        (x.state.powered = true → x.config.retainPower = false →
          (t.slot n).state = .probing ∧ (t.slot n).pwren = false ∧ (t.slot n).origin = .auto
            ∧ (t.slot n).stuck = 0 ∧ (t.engine n).phase = .idle)
        ∧ (x.state = .ready ∨ x.state = .powering → x.config.retainPower = true →
          (t.slot n).state = x.state ∧ (t.slot n).pwren = x.pwren ∧ (t.slot n).stuck = x.stuck
            ∧ (t.slot n).pgTimer = x.pgTimer ∧ (t.slot n).wakeTimer = x.wakeTimer)
        ∧ (x.state = .reading → x.config.retainPower = true →
          (t.slot n).state = .reading ∧ (t.slot n).pwren = x.pwren
            ∧ (t.engine n).descRead = some .header
            ∧ (e.hostTransfer = none → (t.engine n).phase = .addressing))))
  ∧ (∀ (s : State) (n : SlotId) (c : Instr),
    let x := s.slot n
    let e := s.engine n
    let reads := (e.phase = .addressing ∨ e.phase = .receiving) ∧ e.piece = none
    let writes := (e.phase = .addressing ∨ e.phase = .sending) ∧ e.piece.isSome = true
    let polls := e.phase = .polling ∧ e.piece.isSome = true
    s.lane.Sound → s.RequestsSound → s.WaitOrdersSound → s.condition = .halted ∨ s.condition = .resetting →
    e.closing = true →
    (polls → e.pollCounter + 1 ≤ e.pollLimit →
      exec (.poll n false) s = .next ((s.setSlot n { x with stuck := 0 }).setEngine n { e with
        phase := .pollWait, scl := .released, sda := .released, frame := [], sclHeld := false
        sdaHeld := false, pollCounter := e.pollCounter + 1 }))
    ∧ (e.phase = .pollWait → ∀ p, e.piece = some p →
      exec (.pollWaitExpiry n) s = .next (s.setEngine n { e with
        phase := .polling, scl := .clocked, sda := .clocked, block := p.start / 256 % 8
        speed := x.config.speed, stuckCounter := 0
        frame := [BitVec.ofNat 8 (0xB0 + 2 * (p.start / 256 % 8))] }))
    ∧ ((polls ∧ c = .poll n true) ∨ (polls ∧ c = .poll n false ∧ e.pollLimit < e.pollCounter + 1)
        ∨ (reads ∧ (c = .readTransaction n .unanswered ∨ ∃ bytes, c = .readTransaction n (.data bytes)
          ∧ ∀ pos count, e.closeFill = some (pos, count) → pos + min count bytes.length ≤ 2048))
        ∨ (writes ∧ ∃ o, c = .writeTransaction n o)
        ∨ (e.phase = .recovery ∧ ∃ scl sda, c = .recoveryEnd n scl sda) →
      let stuck := match c with
        | .recoveryEnd _ _ _ => min 2 (x.stuck + 1)
        | _ => 0
      let faults := e.phase = .recovery ∧ (x.state = .reading ∨ (x.state = .ready ∧ stuck = 2))
      let exits := ¬ faults ∧ s.condition = .halted ∧ x.resetDue = none ∧ x.state = .ready
        ∧ s.deferredOff n ≠ none
      let restarts := ¬ faults ∧ x.resetDue = some false ∧ x.state.powered = true
      let rereads := ¬ faults ∧ x.resetDue = some true ∧ x.state = .reading
      ∃ t, exec c s = .next t
        ∧ t = { s with
          slots := t.slots, engines := t.engines, lane := t.lane, notices := t.notices
          slotDirty := t.slotDirty, ringDirty := t.ringDirty, deferred := t.deferred
          freeCount := t.freeCount }
        ∧ (s.condition = .halted → t.deferred = s.deferred)
        ∧ (∀ m, t.slot m = if m ≠ n then s.slot m
          else if faults ∨ exits then { x with
            stuck := stuck, state := if faults then .fault else .held
            reason := if faults then .busStuck else .manualOff, pwren := false, settleTimer := none
            probe := none, pgTimer := none, wakeTimer := none, prb := true, resetDue := none
            laneRole := if s.lane.holder = some n ∨ (∃ w ∈ s.lane.waiters, w.slot = n) then .none
              else x.laneRole }
          else if restarts then { x with
            state := .probing, reason := .none, stuck := 0, origin := .auto, pwren := false
            settleTimer := none, pgTimer := none, wakeTimer := none, prb := false, resetDue := none
            probe := some
              { repeatAttempt := false, secondPass := false, highPhase := false, lowA := false
                lowB := false, firstPair := none } }
          else { x with stuck := stuck, resetDue := none })
        ∧ (faults ∨ exits ∨ restarts → t.stateNoticed n)
        ∧ (¬ faults → ¬ exits → ¬ restarts →
          t.notices = s.notices ∧ t.slotDirty = s.slotDirty ∧ t.ringDirty = s.ringDirty)
        ∧ t.lane = (if ¬ (faults ∨ exits) then s.lane else if s.lane.holder = some n then { s.lane with
            state := if s.lane.waiters = [] then .free else .settling, holder := none, holderRing := none
            settleTimer := if s.lane.waiters = [] then none else some s.lane.settleInterval, len := false }
          else { s.lane with waiters := s.lane.waiters.filter fun w => w.slot ≠ n })
        ∧ (∀ m, m ≠ n → t.engine m = s.engine m)
        ∧ (let held : Engine := match c with
            | .recoveryEnd _ scl sda => { e with
                sclHeld := scl, sdaHeld := sda, stuckCounter := if scl then 25 else 0 }
            | .poll _ false => { e with
                sclHeld := false, sdaHeld := false, pollCounter := e.pollCounter + 1 }
            | _ => { e with sclHeld := false, sdaHeld := false }
          let ended : Engine := { held with
            phase := .idle, scl := .released, sda := .released, frame := [], piece := none, exec := none
            descRead := none, closing := false, closeFill := none, buffer := (t.engine n).buffer }
          let rested : Engine := if s.condition = .resetting then { ended with
            attempt := 1, pollCounter := 0, stuckCounter := 0, block := 0, speed := .khz100 } else ended
          t.engine n = if faults ∨ exits then { rested with pendingList := [], heldOver := [] }
            else if rereads then
              (if e.hostTransfer.isSome then { rested with descRead := some .header }
              else { rested with
                descRead := some .header, phase := .addressing, scl := .clocked, sda := .clocked
                attempt := 1, block := 0, speed := x.config.speed, stuckCounter := 0
                frame := [0xB0, 0x00, 0xB1] })
            else rested)
        ∧ (Buffer.wf e.buffer = true → ∀ a, Buffer.read (t.engine n).buffer a
          = match c, e.closeFill with
            | .readTransaction _ (.data bytes), some (pos, count) =>
              if pos ≤ a ∧ a < pos + min count bytes.length then bytes.getD (a - pos) 0
              else Buffer.read e.buffer a
            | _, _ => Buffer.read e.buffer a)))
  ∧ ∀ s t : State, step s = .next t → s.EndingsSound → t.EndingsSound

/-- RESET_BUSY clears, and the device is OFF, when every engine has reported, every restarted slot has been acted
on, and no host transfer or snapshot write is left in flight (R180). -/
def Obligations.ResetBusyClearsWhenWorkEnded : Prop :=
  ∀ s : State, s.condition = .resetting →
    (((∀ n, (s.engine n).closing = false ∧ (s.engine n).hostTransfer = none
        ∧ (s.slot n).resetDue = none) ∧ s.snapshotWrite = none →
      exec .resetBusyClear s = .next { s with condition := .off })
    ∧ (¬ ((∀ n, (s.engine n).closing = false ∧ (s.engine n).hostTransfer = none
        ∧ (s.slot n).resetDue = none) ∧ s.snapshotWrite = none) →
      exec .resetBusyClear s = .next s))

/-- A link reset and a power-on reset return the whole part to its initial state and hold it there (R181, R14),
the line levels and the strap as they stand (R9, R175). When the reset is released, an EMPTY slot whose DETn is
asserted enters SETTLING with its settle timer started, and nothing else changes (R14). The queue, the last
register read, the message counts and the free-choice count are the model's own (log entry 10). -/
def Obligations.PartResetRestoresInitialState : Prop :=
  (∀ s : State, ∃ t, exec .linkReset s = .next t ∧ exec .powerOnReset s = .next t
     ∧ t = { State.reset with
         pending := s.pending, laneFitted := s.laneFitted, inReset := true, slots := t.slots
         readData := s.readData, messagesSent := s.messagesSent, freeCount := s.freeCount }
     ∧ ∀ n, t.slot n = { State.reset.slot n with
         prot := (s.slot n).prot, det := (s.slot n).det, pg := (s.slot n).pg
         senA := (s.slot n).senA, senB := (s.slot n).senB })
  ∧ ∀ s : State, s.inReset = true → ∃ t, exec .resetRelease s = .next t
    ∧ t = { s with inReset := false, slots := t.slots }
    ∧ ∀ n, t.slot n =
        if (s.slot n).state = .empty ∧ (s.slot n).det = true then
          { s.slot n with
            state := .settling, reason := .none, settleTimer := some (10 * (s.slot n).config.settleSteps)
            probe := none, pgTimer := none, wakeTimer := none, prb := true }
        else s.slot n

/-- A failed completion or notice record write halts a device that is STARTING or RUNNING with cause POST_WRITE
(R96, R179): the record is not counted, rings, locks and control work keep their values, every request in
execution ends with no completion, and nothing is handed over. The model's own choice in it: log entry 18 (a
write that ends in a halt is not counted). -/
def Obligations.FailedRecordWriteHalts : Prop :=
  ∀ (s : State) (c : Instr) (k : CompRingId), s.condition = .starting ∨ s.condition = .running →
    (c = .completionWriteFailed k ∧ ∃ r w, (s.comp k).writing = some (r, w) ∧ w.moot = false)
      ∨ (c = .noticeWriteFailed ∧ ∃ p w, s.notices.writing = some (p, w) ∧ w.moot = false) →
    ∃ t, exec c s = .next t
      ∧ t = { s with
        condition := .halted, haltCause := .postWrite, slots := t.slots, engines := t.engines
        compRings := t.compRings, notices := t.notices, slotDirty := t.slotDirty
        ringDirty := t.ringDirty, lane := t.lane, freeCount := t.freeCount }
      ∧ (∀ d, (t.comp d).unconsumed = (s.comp d).unconsumed ∧ (t.comp d).reserved = (s.comp d).reserved
        ∧ (t.comp d).produce = (s.comp d).produce ∧ (t.comp d).phase = (s.comp d).phase
        ∧ (t.comp d).queue = (s.comp d).queue)
      ∧ t.notices.unconsumed = s.notices.unconsumed ∧ t.notices.produce = s.notices.produce
      ∧ ∀ n, (t.engine n).exec = none


/-! ### Slots -/

/-- DETn asserting takes an EMPTY slot to SETTLING with its settle timer started (R18); an edge in SETTLING is
followed, the timer's length as it was (R19, log entry 4); PROTn is followed in every state (R9). -/
def Obligations.DetectAndProtectLinesFollowed : Prop :=
  ∀ (s : State) (n : SlotId) (level : Bool),
    (s.inReset = false → (s.slot n).state = .empty →
      exec (.detAsserted n) s = .next (s.setSlot n { s.slot n with
        det := true, state := .settling, reason := .none
        settleTimer := some (10 * (s.slot n).config.settleSteps), probe := none, pgTimer := none
        wakeTimer := none, prb := true })
      ∧ exec (.detEdge n true) s = exec (.detAsserted n) s)
    ∧ ((s.slot n).state = .settling →
      exec (.detEdge n level) s = .next (s.setSlot n { s.slot n with det := level }))
    ∧ exec (.protChange n level) s = .next (s.setSlot n { s.slot n with prot := level })

/-- The settle timer's expiry (R19, R20): with DETn asserted the insertion is accepted, the generation rises and
the first probe pass starts; otherwise the slot is EMPTY and its waiting requests end REMOVED, in order. -/
def Obligations.SettleExpiryAcceptsOrEmpties : Prop :=
  ∀ (s : State) (n : SlotId), (s.slot n).state = .settling → (s.slot n).settleTimer.isSome = true →
    let x := s.slot n
    ∃ t, exec (.settleTimerExpiry n) s = .next t ∧ (∀ m, m ≠ n → t.slot m = s.slot m)
      ∧ (x.det = true →
        t = { s with
          slots := t.slots, notices := t.notices, slotDirty := t.slotDirty, ringDirty := t.ringDirty }
        ∧ t.stateNoticed n
        ∧ t.slot n = { x with
          state := .probing, reason := .none, stuck := 0, origin := .auto, pwren := false
          generation := if x.generation = 65535 then 1 else x.generation + 1
          settleTimer := none, pgTimer := none, wakeTimer := none, prb := false
          probe := some { repeatAttempt := false, secondPass := false, highPhase := false, lowA := false
                          lowB := false, firstPair := none } })
      ∧ (x.det = false →
        t = { s with
          slots := t.slots, engines := t.engines, rings := t.rings, waitOrders := t.waitOrders
          compRings := t.compRings }
        ∧ t.slot n = { x with
          state := .empty, reason := .none, sense := none, supplyClass := .none
          desc := { state := .none, capacity := 2048, pageSize := 8, identity := none, protectEnd := none
                    closed := false, powerBudget := none, laneWidth := none, label := none
                    unknownCount := none, span := 256 }
          stuck := 0, laneRole := .none, settleTimer := none, probe := none, pgTimer := none
          wakeTimer := none, prb := true, pwren := false, pwrsel := 0, resetDue := none }
        ∧ (∀ m, t.engine m = if m = n then { s.engine n with pendingList := [], heldOver := [] }
            else s.engine m)
        ∧ (s.condition ≠ .halted → t.waitOrder n = [])
        ∧ s.handedFirst t (((s.engine n).heldOver ++ (s.engine n).pendingList).map fun e =>
            completionOf e.ring e.tag n.val e.ringHead .removed x.generation 0))

/-- The probe timer's expiry inside an attempt (R21, R22): the low phase's samples are kept and PRBn driven high;
after a first pass the second starts; a first attempt that does not agree is repeated. -/
def Obligations.ProbePhasesAdvance : Prop :=
  ∀ (s : State) (n : SlotId) (p : Probe) (a b : Bool),
    (s.slot n).state = .probing → (s.slot n).probe = some p →
    let x := s.slot n
    let reading := fun (low high : Bool) => match low, high with
      | false, true => some Reading.linked
      | false, false => some Reading.ground
      | true, true => some Reading.open
      | true, false => none
    let pair := match reading p.lowA a, reading p.lowB b with
      | some u, some v => some { a := u, b := v : SensePair }
      | _, _ => none
    (p.highPhase = false →
      exec (.probeTimerExpiry n a b) s = .next (s.setSlot n { x with
        senA := a, senB := b, prb := true
        probe := some { p with highPhase := true, lowA := a, lowB := b } }))
    ∧ (p.highPhase = true → p.secondPass = false →
      exec (.probeTimerExpiry n a b) s = .next (s.setSlot n { x with
        senA := a, senB := b, prb := false
        probe := some { p with secondPass := true, highPhase := false, firstPair := pair } }))
    ∧ (p.highPhase = true → p.secondPass = true → p.repeatAttempt = false →
      ¬ (pair ≠ none ∧ p.firstPair = pair) →
      exec (.probeTimerExpiry n a b) s = .next (s.setSlot n { x with
        senA := a, senB := b, prb := false
        probe := some { repeatAttempt := true, secondPass := false, highPhase := false, lowA := false
                        lowB := false, firstPair := none } }))

/-- The end of a probe (R5, R22, R23, R24): the sense code and class are written, and the tests in order give
HELD with its reason, the waiting requests ended, or POWERING with the supply on and the PG timer started. -/
def Obligations.ProbeEndByTable : Prop :=
  ∀ (s : State) (n : SlotId) (p : Probe) (a b : Bool) (agreed : Option SensePair),
    (s.slot n).state = .probing → (s.slot n).probe = some p → p.highPhase = true → p.secondPass = true →
    (pairOf p a b ≠ none ∧ p.firstPair = pairOf p a b ∧ agreed = pairOf p a b
      ∨ ¬ (pairOf p a b ≠ none ∧ p.firstPair = pairOf p a b) ∧ p.repeatAttempt = true ∧ agreed = none) →
    let x := s.slot n
    let named : Option SupplyClass := match agreed with
      | some ⟨.open, .open⟩ => some .none
      | some ⟨.ground, .open⟩ => some .s33
      | some ⟨.open, .ground⟩ => some .s50
      | some ⟨.ground, .ground⟩ => some .s120
      | some ⟨.linked, .open⟩ => some .s33s120
      | _ => none
    let allowed := fun c => match c with
      | SupplyClass.none => false
      | .s33 => x.config.supply.s33
      | .s50 => x.config.supply.s50
      | .s120 => x.config.supply.s120
      | .s33s120 => x.config.supply.s33s120
    let verdict : Option Reason := match named with
      | none => some .badSense
      | some .none => some .noSense
      | some c =>
        if allowed c = false then some .classBlocked
        else if x.origin = .auto ∧ x.config.autoPower = false then some .manualOff
        else none
    let y := { x with
      senA := a, senB := b, sense := agreed, supplyClass := named.getD .none, settleTimer := none
      probe := none, pgTimer := none, wakeTimer := none, prb := true
      pwrsel := match named with
        | some .s50 => 1
        | some .s120 => 2
        | some .s33s120 => 3
        | _ => 0 }
    ∃ t, exec (.probeTimerExpiry n a b) s = .next t ∧ t.stateNoticed n
      ∧ (∀ m, m ≠ n → t.slot m = s.slot m)
      ∧ (match verdict with
        | some why =>
          t = { s with
            slots := t.slots, engines := t.engines, rings := t.rings, waitOrders := t.waitOrders
            compRings := t.compRings, notices := t.notices, slotDirty := t.slotDirty
            ringDirty := t.ringDirty }
          ∧ t.slot n = { y with state := .held, reason := why, pwren := false, resetDue := none }
          ∧ (∀ m, t.engine m = if m = n then { s.engine n with pendingList := [], heldOver := [] }
              else s.engine m)
          ∧ s.handedFirst t (((s.engine n).heldOver ++ (s.engine n).pendingList).map fun e =>
              completionOf e.ring e.tag n.val e.ringHead
                (if why = .manualOff then .poweredOff else .notReady) x.generation 0)
        | none =>
          t = { s with
            slots := t.slots, notices := t.notices, slotDirty := t.slotDirty, ringDirty := t.ringDirty }
          ∧ t.slot n = { y with
            state := .powering, reason := .none, pwren := true, pgSeen := x.pg
            pgTimer := if x.pg then none else some x.config.pgLimit
            wakeTimer := if x.pg then some 10 else none })

/-- POWERING (R25, R26): PGn's first assertion stops the PG timer and starts the wake interval; at its end with
PGn asserted the slot is READING and the engine opens the read of the header, unless an abandoned host transfer
still holds its data path (R138). -/
def Obligations.PowerGoodLeadsToReading : Prop :=
  ∀ (s : State) (n : SlotId), (s.slot n).state = .powering →
    let x := s.slot n
    (x.pgSeen = false → exec (.pgAsserted n) s = .next (s.setSlot n { x with
      pg := true, pgSeen := true, pgTimer := none, wakeTimer := some 10 }))
    ∧ (x.wakeTimer.isSome = true → x.pg = true →
      ∃ t, exec (.wakeTimerExpiry n) s = .next t ∧ t.stateNoticed n
        ∧ t = { s with
          slots := t.slots, engines := t.engines, notices := t.notices, slotDirty := t.slotDirty
          ringDirty := t.ringDirty }
        ∧ (∀ m, t.slot m = if m = n then { x with
            state := .reading, reason := .none, settleTimer := none, probe := none, pgTimer := none
            wakeTimer := none, prb := true } else s.slot m)
        ∧ ∀ m, t.engine m = if m ≠ n then s.engine m
          else if (s.engine n).hostTransfer.isSome then { s.engine n with descRead := some .header }
          else { s.engine n with
            descRead := some .header, phase := .addressing, scl := .clocked, sda := .clocked, attempt := 1
            block := 0, speed := x.config.speed, stuckCounter := 0, frame := [0xB0, 0x00, 0xB1] })

/-- The PG limit passes in POWERING (R25, R34, R38, R123): FAULT(PG_TIMEOUT) with the supply off; held-over
entries end POWERED_OFF, waiting entries POWER_FAULT, a standing SLOT_POWER OFF SUCCESS. -/
def Obligations.PgLimitFaultsSlot : Prop :=
  ∀ (s : State) (n : SlotId), s.lane.Sound → (s.slot n).state = .powering →
    (s.slot n).pgTimer.isSome = true → (s.slot n).pgSeen = false →
    s.lane.holder ≠ some n → (∀ w ∈ s.lane.waiters, w.slot ≠ n) →
    ∃ t, exec (.pgTimerExpiry n) s = .next t ∧ t.stateNoticed n
      ∧ t = { s with
        slots := t.slots, engines := t.engines, rings := t.rings, waitOrders := t.waitOrders
        compRings := t.compRings, notices := t.notices, slotDirty := t.slotDirty
        ringDirty := t.ringDirty, deferred := t.deferred, freeCount := t.freeCount }
      ∧ (∀ m, t.slot m = if m = n then { s.slot n with
          state := .fault, reason := .pgTimeout, pwren := false, settleTimer := none, probe := none
          pgTimer := none, wakeTimer := none, prb := true, resetDue := none } else s.slot m)
      ∧ (∀ m, t.engine m = if m = n then { s.engine n with pendingList := [], heldOver := [] }
          else s.engine m)
      ∧ (s.condition ≠ .halted → t.deferredOff n = none)
      ∧ s.handedFirst t
        ((s.engine n).heldOver.map (fun e =>
          completionOf e.ring e.tag n.val e.ringHead .poweredOff (s.slot n).generation 0)
        ++ (s.engine n).pendingList.map (fun e =>
          completionOf e.ring e.tag n.val e.ringHead .powerFault (s.slot n).generation 0)
        ++ match s.deferredOff n with
          | some (tag, head) => [completionOf 0 tag n.val head .success (s.slot n).generation 7]
          | none => [])

/-- PGn is lost in READING, in READY, or in POWERING after it was seen (R25, R26, R31, R33, R34, R38, R59, R77,
R78, R79, R161, R162): the bus is cut, the slot is FAULT(POWER_LOST) with its descriptor fields kept, ABSENT where
a re-parse or REFRESH was cut, its hold or wait ends, and its requests and a standing SLOT_POWER OFF complete, the
lane's claim in no fixed order with them. The model's own choice in it: log entries 15 (a re-read that is cut), 28 (a piece in RETRY_WAIT) and 33 (a piece in RECOVERY). -/
def Obligations.PowerLossFaultsSlot : Prop :=
  ∀ (s : State) (n : SlotId), s.lane.Sound →
    (s.slot n).state = .reading ∨ (s.slot n).state = .ready
      ∨ ((s.slot n).state = .powering ∧ (s.slot n).pgSeen = true) →
    let x := s.slot n
    let e := s.engine n
    let reparsing := match e.exec with
      | some q => (match q.stage with
        | .reparse _ => true
        | _ => false)
      | none => false
    let rereading := match e.exec with
      | some q => reparsing || q.stage == .refreshing
      | none => false
    let own := match e.exec with
      | none => []
      | some q =>
        let base := completionOf q.entry.ring q.entry.tag n.val q.entry.ringHead .powerFault x.generation 0
        if reparsing then [{ base with bytesDone := q.bytesDone, reparseFailed := true }]
        else if q.stage ≠ .pieces then [base]
        else match e.piece with
          | some p =>
            if e.phase = .retryWait then [{ base with bytesDone := q.bytesDone }]
            else [{ base with bytesDone := q.bytesDone, detail := p.start, pageUncertain := true }]
          | none => [{ base with bytesDone := q.bytesDone }]
    ∃ t, exec (.pgDeasserted n) s = .next t ∧ t.stateNoticed n
      ∧ t = { s with
        slots := t.slots, engines := t.engines, rings := t.rings, waitOrders := t.waitOrders
        compRings := t.compRings, notices := t.notices, slotDirty := t.slotDirty, lane := t.lane
        ringDirty := t.ringDirty, deferred := t.deferred, freeCount := t.freeCount }
      ∧ (∀ m, t.slot m = if m = n then { x with
          pg := false, state := .fault, reason := .powerLost, pwren := false, settleTimer := none
          probe := none, pgTimer := none, wakeTimer := none, prb := true, resetDue := none
          laneRole := if s.lane.holder = some n ∨ (∃ w ∈ s.lane.waiters, w.slot = n) then .none
            else x.laneRole
          desc := if rereading then Desc.raw .absent else x.desc } else s.slot m)
      ∧ (rereading = true → changeMask x.desc (Desc.raw .absent) ≠ 0 →
        t.changeNoticed n (changeMask x.desc (Desc.raw .absent)))
      ∧ (∀ m, m ≠ n → t.engine m = s.engine m)
      ∧ ((t.engine n).phase = .idle ∧ (t.engine n).scl = .released ∧ (t.engine n).sda = .released
        ∧ (t.engine n).piece = none ∧ (t.engine n).pollCounter = 0 ∧ (t.engine n).exec = none
        ∧ (t.engine n).descRead = none ∧ (t.engine n).pendingList = [] ∧ (t.engine n).heldOver = []
        ∧ (t.engine n).buffer = e.buffer
        ∧ (t.engine n).hostTransfer = e.hostTransfer.map fun h => { h with abandoned := true })
      ∧ t.lane = (if s.lane.holder = some n then { s.lane with
          state := if s.lane.waiters = [] then .free else .settling, holder := none, holderRing := none
          settleTimer := if s.lane.waiters = [] then none else some s.lane.settleInterval, len := false }
        else { s.lane with waiters := s.lane.waiters.filter fun w => w.slot ≠ n })
      ∧ (s.condition ≠ .halted → t.deferredOff n = none)
      ∧ s.handedMerged t
        ((s.lane.waiters.filter fun w => w.slot = n).map fun w =>
          completionOf w.ring w.tag n.val w.ringHead .powerFault x.generation 0)
        (own ++ e.heldOver.map (fun e =>
            completionOf e.ring e.tag n.val e.ringHead .poweredOff x.generation 0)
          ++ e.pendingList.map (fun e =>
            completionOf e.ring e.tag n.val e.ringHead .powerFault x.generation 0)
          ++ match s.deferredOff n with
            | some (tag, head) => [completionOf 0 tag n.val head .success x.generation 7]
            | none => [])

/-- A removal (R29, R30, R32, R59, R77, R79, R148, R161, R162): the slot is EMPTY with its descriptor, sense code and
lock entries cleared and its generation kept, its hold or wait ends, and everything of it completes REMOVED,
the lane's claim in no fixed order with the rest. The model's own choice in it: log entries 15 (a re-read that
is cut), 28 (a piece in RETRY_WAIT) and 33 (a piece in RECOVERY). -/
def Obligations.RemovalEmptiesSlot : Prop :=
  ∀ (s : State) (n : SlotId), s.lane.Sound → s.inReset = false →
    (s.slot n).state ≠ .empty → (s.slot n).state ≠ .settling →
    let x := s.slot n
    let e := s.engine n
    let own := match e.exec with
      | none => []
      | some q =>
        let base := completionOf q.entry.ring q.entry.tag n.val q.entry.ringHead .removed x.generation 0
        match q.stage with
        | .reparse _ => [{ base with bytesDone := q.bytesDone, reparseFailed := true }]
        | .pieces =>
          (match e.piece with
          | some p =>
            if e.phase = .retryWait then [{ base with bytesDone := q.bytesDone }]
            else [{ base with bytesDone := q.bytesDone, detail := p.start, pageUncertain := true }]
          | none => [{ base with bytesDone := q.bytesDone }])
        | _ => [base]
    ∃ t, exec (.removal n) s = .next t ∧ exec (.detEdge n false) s = .next t ∧ t.stateNoticed n
      ∧ t = { s with
        slots := t.slots, engines := t.engines, rings := t.rings, waitOrders := t.waitOrders
        compRings := t.compRings, notices := t.notices, slotDirty := t.slotDirty, lane := t.lane
        ringDirty := t.ringDirty, deferred := t.deferred, freeCount := t.freeCount
        locks := s.locks.filter fun l => l.slot ≠ n }
      ∧ (∀ m, t.slot m = if m = n then { x with
          det := false, state := .empty, reason := .none, sense := none, supplyClass := .none
          desc := Desc.raw .none, stuck := 0, laneRole := .none, settleTimer := none, probe := none
          pgTimer := none, wakeTimer := none, prb := true, pwren := false, pwrsel := 0
          resetDue := none } else s.slot m)
      ∧ (∀ q, e.exec = some q → (q.stage = .refreshing ∨ ∃ final, q.stage = .reparse final) →
        changeMask x.desc (Desc.raw .absent) ≠ 0 →
        t.changeNoticed n (changeMask x.desc (Desc.raw .absent)))
      ∧ (∀ m, m ≠ n → t.engine m = s.engine m)
      ∧ ((t.engine n).phase = .idle ∧ (t.engine n).scl = .released ∧ (t.engine n).sda = .released
        ∧ (t.engine n).piece = none ∧ (t.engine n).pollCounter = 0 ∧ (t.engine n).exec = none
        ∧ (t.engine n).descRead = none ∧ (t.engine n).pendingList = [] ∧ (t.engine n).heldOver = []
        ∧ (t.engine n).buffer = e.buffer
        ∧ (t.engine n).hostTransfer = e.hostTransfer.map fun h => { h with abandoned := true })
      ∧ t.lane = (if s.lane.holder = some n then { s.lane with
          state := if s.lane.waiters = [] then .free else .settling, holder := none, holderRing := none
          settleTimer := if s.lane.waiters = [] then none else some s.lane.settleInterval, len := false }
        else { s.lane with waiters := s.lane.waiters.filter fun w => w.slot ≠ n })
      ∧ (s.condition ≠ .halted → t.deferredOff n = none)
      ∧ s.handedMerged t
        ((s.lane.waiters.filter fun w => w.slot = n).map fun w =>
          completionOf w.ring w.tag n.val w.ringHead .removed x.generation 0)
        (own ++ (e.heldOver ++ e.pendingList).map (fun e =>
            completionOf e.ring e.tag n.val e.ringHead .removed x.generation 0)
          ++ match s.deferredOff n with
            | some (tag, head) => [completionOf 0 tag n.val head .removed x.generation 0]
            | none => [])

/-! ### The slot bus -/

/-- A READ's bus transaction delivers its bytes (R44, R45, R47, R127, R128): they take their places in the data
buffer, and the next block is read, or the host write of the whole range starts with the bus IDLE. A COMPARE's is
compared byte by byte (R130): MISMATCH with the address of the first byte that differs, else the next block, or
SUCCESS with the length. The first bytes of a transaction take their places as they arrive, with the transaction
still open, so that what interrupts it later finds them placed. The model's own choice in it: log entries 25 and 27
(the bus values after a transaction), 37 (the START of the next block) and 38 (how the first bytes arrive). -/
def Obligations.ReadTransactionFillsBuffer : Prop :=
  ∀ (s : State) (n : SlotId) (x : Execution) (bytes : List Byte),
    let e := s.engine n
    let stop := x.entry.address + x.entry.length
    let count := min (stop - x.next) (256 - x.next % 256)
    let pos := x.next - x.entry.address
    let next := x.next + count
    let opened : Engine := { e with
      sclHeld := false, sdaHeld := false, phase := .addressing, scl := .clocked, sda := .clocked
      attempt := 1, block := next / 256 % 8, speed := (s.slot n).config.speed, stuckCounter := 0
      frame := [BitVec.ofNat 8 (0xB0 + 2 * (next / 256 % 8)), BitVec.ofNat 8 next,
        BitVec.ofNat 8 (0xB1 + 2 * (next / 256 % 8))]
      exec := some { x with next := next } }
    e.phase = .addressing ∨ e.phase = .receiving → e.piece = none → e.closing = false →
    e.descRead = none → e.exec = some x → x.stage = .busRead → x.abortMark = false →
    x.entry.address ≤ x.next → x.next < stop → stop ≤ 2048 →
    (x.entry.kind = .read → bytes.length = count → Buffer.wf e.buffer = true →
      ∃ t, exec (.readTransaction n (.data bytes)) s = .next t
        ∧ t = { s with slots := t.slots, engines := t.engines }
        ∧ (∀ m, t.slot m = if m = n then { s.slot n with stuck := 0 } else s.slot m)
        ∧ (∀ m, m ≠ n → t.engine m = s.engine m)
        ∧ (∀ a, Buffer.read (t.engine n).buffer a =
            if pos ≤ a ∧ a < pos + count then bytes.getD (a - pos) 0 else Buffer.read e.buffer a)
        ∧ (if next < stop then t.engine n = { opened with buffer := (t.engine n).buffer }
          else t.engine n = { e with
            buffer := (t.engine n).buffer, sclHeld := false, sdaHeld := false, phase := .idle
            scl := .released, sda := .released, frame := [], piece := none
            hostTransfer := some
              { toHost := true, address := x.entry.buffer, length := x.entry.length, abandoned := false
                data := (List.range x.entry.length).map fun i => Buffer.read (t.engine n).buffer i }
            exec := some { x with next := next, stage := .hostWrite } }))
    ∧ (x.entry.kind = .read → bytes ≠ [] → bytes.length < count → Buffer.wf e.buffer = true →
      ∃ t, exec (.readTransaction n (.data bytes)) s = .next t
        ∧ t = s.setEngine n { e with phase := .receiving, buffer := (t.engine n).buffer }
        ∧ ∀ a, Buffer.read (t.engine n).buffer a =
            if pos ≤ a ∧ a < pos + bytes.length then bytes.getD (a - pos) 0 else Buffer.read e.buffer a)
    ∧ (x.entry.kind = .compare → s.deferredOff n = none →
      let expected := fun i => Buffer.read e.buffer (pos + i)
      let ended := fun (t : State) (status : Status) (detail done : Nat) =>
        t = { s with slots := t.slots, engines := t.engines, compRings := t.compRings }
        ∧ (∀ m, t.slot m = if m = n then { s.slot n with stuck := 0 } else s.slot m)
        ∧ (∀ m, t.engine m = if m = n then { e with
            phase := .idle, scl := .released, sda := .released, frame := [], sclHeld := false
            sdaHeld := false, exec := none } else s.engine m)
        ∧ s.handed t [{ completionOf x.entry.ring x.entry.tag n.val x.entry.ringHead status
            x.seen.generation detail with bytesDone := done }]
      (bytes.length = count → (∀ i, i < count → bytes.getD i 0 = expected i) →
        (next < stop → exec (.readTransaction n (.data bytes)) s
          = .next ((s.setSlot n { s.slot n with stuck := 0 }).setEngine n opened))
        ∧ (stop ≤ next → ∃ t, exec (.readTransaction n (.data bytes)) s = .next t
          ∧ ended t .success 0 x.entry.length))
      ∧ (bytes ≠ [] → bytes.length < count → (∀ i, i < bytes.length → bytes.getD i 0 = expected i) →
        exec (.readTransaction n (.data bytes)) s
          = .next (s.setEngine n { e with phase := .receiving }))
      ∧ ∀ k, k < bytes.length → k < count → (∀ i, i < k → bytes.getD i 0 = expected i) →
        bytes.getD k 0 ≠ expected k →
        ∃ t, exec (.readTransaction n (.data bytes)) s = .next t
          ∧ ended t .mismatch (x.next + k) (pos + k))

/-- A piece sent whole is polled (R50, R51): POLL_WAIT with the counter at 0 and the slot's limit, then a poll
of the address byte alone; a refused poll raises the counter and waits again up to the limit. A refused data byte
ends the WRITE WRITE_REFUSED (R50, R52), PAGE_UNCERTAIN with the piece's start when a data byte before it was
acknowledged. The model's own choice in it: log entries 25 and 27 (the bus values after a transaction). -/
def Obligations.PieceSentThenPolled : Prop :=
  ∀ (s : State) (n : SlotId) (p : Piece), (s.engine n).piece = some p →
    let e := s.engine n
    let reported := s.setSlot n { s.slot n with stuck := 0 }
    ((e.phase = .addressing ∨ e.phase = .sending) → e.closing = false → e.exec.isSome = true →
      (∀ x, e.exec = some x → x.abortMark = false) →
      exec (.writeTransaction n .sent) s = .next (reported.setEngine n { e with
        phase := .pollWait, scl := .released, sda := .released, frame := [], sclHeld := false
        sdaHeld := false, pollCounter := 0, pollLimit := (s.slot n).config.pollLimit }))
    ∧ (∀ x acked, (e.phase = .addressing ∨ e.phase = .sending) → e.closing = false → e.exec = some x →
      acked < p.length → s.deferredOff n = none →
      ∃ t, exec (.writeTransaction n (.dataRefused acked)) s = .next t
        ∧ t = { reported with engines := t.engines, compRings := t.compRings }
        ∧ (∀ m, t.engine m = if m = n then { e with
            phase := .idle, scl := .released, sda := .released, frame := [], sclHeld := false
            sdaHeld := false, piece := none, exec := none, descRead := none } else s.engine m)
        ∧ s.handed t [{ completionOf x.entry.ring x.entry.tag n.val x.entry.ringHead .writeRefused
            x.seen.generation (if acked = 0 then 0 else p.start) with
          bytesDone := x.bytesDone, pageUncertain := acked ≠ 0 }])
    ∧ (e.phase = .pollWait → exec (.pollWaitExpiry n) s = .next (s.setEngine n { e with
        phase := .polling, scl := .clocked, sda := .clocked, block := p.start / 256 % 8
        speed := (s.slot n).config.speed, stuckCounter := 0
        frame := [BitVec.ofNat 8 (0xB0 + 2 * (p.start / 256 % 8))] }))
    ∧ (e.phase = .polling → e.pollCounter + 1 ≤ e.pollLimit →
      exec (.poll n false) s = .next (reported.setEngine n { e with
        phase := .pollWait, scl := .released, sda := .released, frame := [], sclHeld := false
        sdaHeld := false, pollCounter := e.pollCounter + 1 }))

/-- The end of a piece's polling (R49, R51, R52, R57, R74, R133): an acknowledge confirms the piece and leaves
the WRITE between its pieces with nothing sent, starts the re-parse or completes the WRITE; a refusal above the
limit completes it WRITE_TIMEOUT. Between its pieces an unmarked WRITE makes the START of the next piece (R49,
R50, R51) at a tick of its slot, and before a command that presupposes it (log entry 37). The model's own choice in
it: log entries 25 and 27 (the bus values after a transaction). -/
def Obligations.PollEndsPiece : Prop :=
  (∀ (s : State) (n : SlotId) (p : Piece) (x : Execution),
    let e := s.engine n
    let next := p.start + p.length
    let stop := x.entry.address + x.entry.length
    let whole := x.bytesDone + p.length
    let result := fun (status : Status) (done : Nat) => { completionOf x.entry.ring x.entry.tag n.val
      x.entry.ringHead status x.seen.generation 0 with bytesDone := done }
    e.phase = .polling → e.piece = some p → e.closing = false → e.exec = some x → x.stage = .pieces →
    s.deferredOff n = none →
    (x.abortMark = false → next < stop →
      exec (.poll n true) s = .next ((s.setSlot n { s.slot n with stuck := 0 }).setEngine n { e with
        phase := .idle, scl := .released, sda := .released, frame := [], sclHeld := false
        sdaHeld := false, piece := none, exec := some { x with next := next, bytesDone := whole } }))
    ∧ (x.abortMark = true ∨ stop ≤ next →
      ∃ t, exec (.poll n true) s = .next t
        ∧ t = { s with slots := t.slots, engines := t.engines, compRings := t.compRings }
        ∧ (∀ m, t.slot m = if m = n then { s.slot n with stuck := 0 } else s.slot m)
        ∧ (∀ m, m ≠ n → t.engine m = s.engine m)
        ∧ (t.engine n).piece = none
        ∧ (if 0 < whole ∧ x.entry.address < x.seen.span then
            (t.engine n).exec = some { x with
              next := next, bytesDone := whole
              stage := .reparse (if x.abortMark then .aborted else .success) }
            ∧ (t.engine n).descRead = some .header
            ∧ (e.hostTransfer = none → (t.engine n).phase = .addressing
              ∧ (t.engine n).frame = [0xB0, 0x00, 0xB1])
            ∧ s.handed t []
          else (t.engine n).exec = none ∧ (t.engine n).phase = .idle
            ∧ s.handed t [result (if x.abortMark then .aborted else .success) whole]))
    ∧ (e.pollLimit < e.pollCounter + 1 →
      ∃ t, exec (.poll n false) s = .next t
        ∧ t = { s with slots := t.slots, engines := t.engines, compRings := t.compRings }
        ∧ (∀ m, t.slot m = if m = n then { s.slot n with stuck := 0 } else s.slot m)
        ∧ (∀ m, t.engine m = if m = n then { e with
            phase := .idle, scl := .released, sda := .released, frame := [], sclHeld := false
            sdaHeld := false, piece := none, pollCounter := e.pollCounter + 1, exec := none
            descRead := none } else s.engine m)
        ∧ s.handed t [{ result .writeTimeout x.bytesDone with detail := p.start, pageUncertain := true }]))
  ∧ ∀ (s : State) (n : SlotId) (x : Execution),
    let e := s.engine n
    let stop := x.entry.address + x.entry.length
    let len := min (stop - x.next) (x.seen.pageSize - x.next % x.seen.pageSize)
    let opened := s.setEngine n { e with
      phase := .addressing, scl := .clocked, sda := .clocked, attempt := 1
      block := x.next / 256 % 8, speed := (s.slot n).config.speed, stuckCounter := 0
      frame := BitVec.ofNat 8 (0xB0 + 2 * (x.next / 256 % 8)) :: BitVec.ofNat 8 x.next
        :: (List.range len).map fun i => Buffer.read e.buffer (x.next - x.entry.address + i)
      piece := some { start := x.next, length := len } }
    e.exec = some x → x.stage = .pieces → e.phase = .idle → e.piece = none → x.next < stop →
    x.abortMark = false →
    (s.pending = [] → (∀ m, m ≠ n → (s.engine m).phase = .idle ∧ (s.engine m).exec = none) →
      step s = .next opened)
    ∧ (∀ o, exec (.writeTransaction n o) s = exec (.writeTransaction n o) opened)
    ∧ ∀ cause atStart, exec (.stuckEpisode n cause atStart) s
      = exec (.stuckEpisode n cause atStart) opened

/-- An addressed access that is refused (R48): STOP and RETRY_WAIT, then the same access again as the next
attempt, a READ's or COMPARE's block, a descriptor read's header or extension area, or a WRITE's piece; refused
the third time it is given up, a READ, COMPARE or WRITE with NO_RESPONSE, a slot's first read with descriptor
ABSENT and the slot READY. The model's own choice in it: log entries 25 and 27 (the bus values after a
transaction). -/
def Obligations.RefusedAccessRetriedThenGivenUp : Prop :=
  ∀ (s : State) (n : SlotId),
    let e := s.engine n
    (e.phase = .addressing ∨ e.phase = .receiving → e.piece = none → e.closing = false →
      (e.attempt < 3 → (∀ x, e.exec = some x → x.abortMark = false) →
        e.descRead.isSome = true ∨ e.exec.isSome = true →
        exec (.readTransaction n .unanswered) s
          = .next ((s.setSlot n { s.slot n with stuck := 0 }).setEngine n { e with
            phase := .retryWait, scl := .released, sda := .released, frame := [], sclHeld := false
            sdaHeld := false }))
      ∧ (3 ≤ e.attempt → e.descRead.isSome = true → e.exec = none →
        ∃ t, exec (.readTransaction n .unanswered) s = .next t ∧ t.stateNoticed n
          ∧ t = { s with
            slots := t.slots, engines := t.engines, notices := t.notices, slotDirty := t.slotDirty
            ringDirty := t.ringDirty }
          ∧ (∀ m, t.slot m = if m = n then { s.slot n with
              stuck := 0, state := .ready, reason := .none
              desc := { state := .absent, capacity := 2048, pageSize := 8, identity := none
                        protectEnd := none, closed := false, powerBudget := none, laneWidth := none
                        label := none, unknownCount := none, span := 256 } } else s.slot m)
          ∧ ∀ m, t.engine m = if m = n then { e with
              phase := .idle, scl := .released, sda := .released, frame := [], sclHeld := false
              sdaHeld := false, descRead := none } else s.engine m)
      ∧ (∀ x, 3 ≤ e.attempt → e.descRead = none → e.exec = some x → x.stage = .busRead →
        x.abortMark = false → s.deferredOff n = none →
        ∃ t, exec (.readTransaction n .unanswered) s = .next t
          ∧ t = { s with slots := t.slots, engines := t.engines, compRings := t.compRings }
          ∧ (∀ m, t.slot m = if m = n then { s.slot n with stuck := 0 } else s.slot m)
          ∧ (∀ m, t.engine m = if m = n then { e with
              phase := .idle, scl := .released, sda := .released, frame := [], sclHeld := false
              sdaHeld := false, exec := none } else s.engine m)
          ∧ s.handed t [completionOf x.entry.ring x.entry.tag n.val x.entry.ringHead .noResponse
              x.seen.generation 0]))
    ∧ (∀ x p, e.phase = .addressing ∨ e.phase = .sending → e.piece = some p → e.closing = false →
      e.descRead = none → e.exec = some x → x.abortMark = false → x.stage = .pieces →
      (e.attempt < 3 → exec (.writeTransaction n .unanswered) s
        = .next ((s.setSlot n { s.slot n with stuck := 0 }).setEngine n { e with
          phase := .retryWait, scl := .released, sda := .released, frame := [], sclHeld := false
          sdaHeld := false }))
      ∧ (3 ≤ e.attempt → s.deferredOff n = none →
        ∃ t, exec (.writeTransaction n .unanswered) s = .next t
          ∧ t = { s with slots := t.slots, engines := t.engines, compRings := t.compRings }
          ∧ (∀ m, t.slot m = if m = n then { s.slot n with stuck := 0 } else s.slot m)
          ∧ (∀ m, t.engine m = if m = n then { e with
              phase := .idle, scl := .released, sda := .released, frame := [], sclHeld := false
              sdaHeld := false, piece := none, exec := none } else s.engine m)
          ∧ s.handed t [{ completionOf x.entry.ring x.entry.tag n.val x.entry.ringHead .noResponse
              x.seen.generation 0 with bytesDone := x.bytesDone }]))
    ∧ (e.phase = .retryWait →
      let again := fun (address : Nat) (e : Engine) => s.setEngine n { e with
        phase := .addressing, scl := .clocked, sda := .clocked, attempt := e.attempt + 1
        block := address / 256 % 8, speed := (s.slot n).config.speed, stuckCounter := 0 }
      let readAt := fun address : Nat =>
        [BitVec.ofNat 8 (0xB0 + 2 * (address / 256 % 8)), BitVec.ofNat 8 address,
          BitVec.ofNat 8 (0xB1 + 2 * (address / 256 % 8))]
      (∀ x p, e.descRead = none → e.exec = some x → x.abortMark = false → x.stage = .pieces →
        e.piece = some p → exec (.retryWaitExpiry n) s = .next (again p.start { e with
          frame := BitVec.ofNat 8 (0xB0 + 2 * (p.start / 256 % 8)) :: BitVec.ofNat 8 p.start
            :: (List.range p.length).map fun i => Buffer.read e.buffer (p.start - x.entry.address + i) }))
      ∧ (∀ x, e.descRead = none → e.exec = some x → x.abortMark = false → x.stage = .busRead →
        exec (.retryWaitExpiry n) s = .next (again x.next { e with frame := readAt x.next }))
      ∧ (e.descRead = some .header →
        exec (.retryWaitExpiry n) s = .next (again 0 { e with frame := [0xB0, 0x00, 0xB1] }))
      ∧ ∀ h, e.descRead = some (.extension h) →
        exec (.retryWaitExpiry n) s = .next (again 32 { e with frame := [0xB0, 0x20, 0xB1] }))

/-- A stuck episode and its recovery (R33, R34, R38, R53, R54, R55, R161, R162): the transaction gives way to
RECOVERY; when that ends, finished or not, the stuck count rises and the request ends BUS_STUCK, a READ or COMPARE
plainly, a WRITE in its pieces with its confirmed bytes, PAGE_UNCERTAIN and the piece's start where a piece was
current. At a count of 1 the slot stays READY. At 2 it goes to FAULT(BUS_STUCK), and after that completion come the
waiting entries POWER_FAULT, those held over POWERED_OFF, a standing OFF SUCCESS, the lane's claim in no fixed order
with them. The first read of a slot ends so at once. The model's own choice in it: a piece whose START the episode
forestalled has not begun (log entry 14), the stuck counter and the held-low readings during and after the recovery
(log entry 27), a count that stops at 2 (log entry 29), and the block, attempt count and speed that stay (log
entries 34 and 35). -/
def Obligations.StuckEpisodeEndsWork : Prop :=
  ∀ (s : State) (n : SlotId) (cause : StuckCause) (atStart scl sda : Bool),
    let e := s.engine n
    let y := s.slot n
    let claims := (s.lane.waiters.filter fun w => w.slot = n).map fun w =>
      completionOf w.ring w.tag n.val w.ringHead .powerFault y.generation 0
    let lists := e.heldOver.map (fun q =>
        completionOf q.ring q.tag n.val q.ringHead .poweredOff y.generation 0)
      ++ e.pendingList.map (fun q =>
        completionOf q.ring q.tag n.val q.ringHead .powerFault y.generation 0)
      ++ match s.deferredOff n with
        | some (tag, head) => [completionOf 0 tag n.val head .success y.generation 7]
        | none => []
    let recovered := fun t : State =>
      t = { s with
        slots := t.slots, engines := t.engines, rings := t.rings, waitOrders := t.waitOrders
        compRings := t.compRings, notices := t.notices, slotDirty := t.slotDirty, lane := t.lane
        ringDirty := t.ringDirty, deferred := t.deferred, freeCount := t.freeCount }
      ∧ (t.slot n).stuck = min 2 (y.stuck + 1) ∧ (t.slot n).desc = y.desc
      ∧ (t.engine n).phase = .idle ∧ (t.engine n).exec = none ∧ (t.engine n).descRead = none
      ∧ (t.engine n).sclHeld = scl ∧ (t.engine n).sdaHeld = sda
      ∧ ∀ m, m ≠ n → t.slot m = s.slot m ∧ t.engine m = s.engine m
    let faulted := fun (t : State) (own : List Completion) =>
      t.stateNoticed n
      ∧ t.slot n = { y with
        stuck := min 2 (y.stuck + 1), state := .fault, reason := .busStuck, pwren := false
        settleTimer := none, probe := none, pgTimer := none, wakeTimer := none, prb := true
        resetDue := none
        laneRole := if s.lane.holder = some n ∨ (∃ w ∈ s.lane.waiters, w.slot = n) then .none
          else y.laneRole }
      ∧ (t.engine n).pendingList = [] ∧ (t.engine n).heldOver = []
      ∧ t.lane = (if s.lane.holder = some n then { s.lane with
          state := if s.lane.waiters = [] then .free else .settling, holder := none, holderRing := none
          settleTimer := if s.lane.waiters = [] then none else some s.lane.settleInterval, len := false }
        else { s.lane with waiters := s.lane.waiters.filter fun w => w.slot ≠ n })
      ∧ (s.condition ≠ .halted → t.deferredOff n = none)
      ∧ ∃ rs, rs.Perm (claims ++ lists) ∧ claims.Sublist rs ∧ lists.Sublist rs
        ∧ s.handedFirst t (own ++ rs)
    ((e.phase = .addressing ∨ e.phase = .sending ∨ e.phase = .receiving ∨ e.phase = .polling) →
      exec (.stuckEpisode n cause atStart) s = .next (s.setEngine n { e with
        piece := if atStart = true ∧ e.phase = .addressing then none else e.piece
        phase := .recovery, scl := .clocked, sda := .clocked
        stuckCounter := if cause = .sclLow then 25 else 0
        sclHeld := cause == .sclLow, sdaHeld := cause == .sdaLow }))
    ∧ (s.lane.Sound → e.phase = .recovery → e.closing = false → e.exec = none →
      e.descRead.isSome = true →
      ∃ t, exec (.recoveryEnd n scl sda) s = .next t ∧ recovered t ∧ faulted t [])
    ∧ ∀ x, s.lane.Sound → e.phase = .recovery → e.closing = false → e.exec = some x →
      x.stage = .busRead ∨ x.stage = .pieces → y.state = .ready →
      let base := completionOf x.entry.ring x.entry.tag n.val x.entry.ringHead .busStuck x.seen.generation 0
      let own := if x.stage = .busRead then base
        else match e.piece with
          | some p => { base with bytesDone := x.bytesDone, detail := p.start, pageUncertain := true }
          | none => { base with bytesDone := x.bytesDone }
      ∃ t, exec (.recoveryEnd n scl sda) s = .next t ∧ recovered t
        ∧ (0 < y.stuck → faulted t [own])
        ∧ (y.stuck = 0 → s.deferredOff n = none →
          t = { s with slots := t.slots, engines := t.engines, compRings := t.compRings }
          ∧ t.slot n = { y with stuck := 1 } ∧ (t.engine n).pendingList = e.pendingList
          ∧ (t.engine n).heldOver = e.heldOver ∧ s.handed t [own])

/-- The engine acts on the abort mark (R47, R57, R117, R137): a bus read ends ABORTED with bytes_done 0 and the bytes
it received in the data buffer, whether it closed early or its transaction ran to its end, a COMPARE that met a
differing byte first MISMATCH; a piece being sent closes, and the WRITE ends ABORTED with its confirmed bytes, after
a re-parse where R74 asks for one, as it does between its pieces and in RETRY_WAIT; a refused data byte ends it
WRITE_REFUSED. The model's own choice in it: log entry 22 (how the marked byte closed). -/
def Obligations.AbortMarkEndsRequest : Prop :=
  ∀ (s : State) (n : SlotId) (x : Execution),
    let e := s.engine n
    let stop := x.entry.address + x.entry.length
    let count := min (stop - x.next) (256 - x.next % 256)
    let pos := x.next - x.entry.address
    let onBus := (e.phase = .addressing ∨ e.phase = .receiving ∨ e.phase = .sending : Bool)
    let result := fun (status : Status) (detail done : Nat) =>
      { completionOf x.entry.ring x.entry.tag n.val x.entry.ringHead status x.seen.generation detail with
        bytesDone := done }
    let framed := fun t : State =>
      t = { s with slots := t.slots, engines := t.engines, compRings := t.compRings }
      ∧ (∀ m, t.slot m = if m = n ∧ onBus = true then { s.slot n with stuck := 0 } else s.slot m)
      ∧ ∀ m, m ≠ n → t.engine m = s.engine m
    let ended := fun (t : State) (c : Completion) => framed t
      ∧ (t.engine n).phase = .idle ∧ (t.engine n).piece = none ∧ (t.engine n).exec = none
      ∧ (t.engine n).pendingList = e.pendingList ∧ s.handed t [c]
    e.exec = some x → e.descRead = none → x.abortMark = true → e.closing = false →
    s.deferredOff n = none →
    (x.stage = .busRead → e.phase = .retryWait → ∀ close,
      ∃ t, exec (.abortMark n close) s = .next t ∧ ended t (result .aborted 0 0)
        ∧ (t.engine n).buffer = e.buffer)
    ∧ (x.stage = .busRead → e.phase = .addressing ∨ e.phase = .receiving → e.piece = none →
      (∃ t, exec (.readTransaction n .unanswered) s = .next t ∧ ended t (result .aborted 0 0)
        ∧ (t.engine n).buffer = e.buffer)
      ∧ (∀ received : List Byte, x.entry.kind = .read → pos + count ≤ 2048 → received.length ≤ count →
        Buffer.wf e.buffer = true →
        ∃ t, exec (.abortMark n (.clean received)) s = .next t
          ∧ exec (.readTransaction n (.data received)) s = .next t
          ∧ ended t (result .aborted 0 0)
          ∧ ∀ a, Buffer.read (t.engine n).buffer a =
            if pos ≤ a ∧ a < pos + received.length then received.getD (a - pos) 0
            else Buffer.read e.buffer a)
      ∧ ∀ received : List Byte, x.entry.kind = .compare → received.length ≤ count →
        let expected := fun i => Buffer.read e.buffer (pos + i)
        ((∀ i, i < received.length → received.getD i 0 = expected i) →
          ∃ t, exec (.abortMark n (.clean received)) s = .next t
            ∧ exec (.readTransaction n (.data received)) s = .next t
            ∧ ended t (result .aborted 0 0) ∧ (t.engine n).buffer = e.buffer)
        ∧ ∀ k, k < received.length → (∀ i, i < k → received.getD i 0 = expected i) →
          received.getD k 0 ≠ expected k →
          ∃ t, exec (.abortMark n (.clean received)) s = .next t
            ∧ exec (.readTransaction n (.data received)) s = .next t
            ∧ ended t (result .mismatch (x.next + k) (pos + k)))
    ∧ (x.stage = .pieces →
      let sending := (e.phase = .addressing ∨ e.phase = .sending) ∧ e.piece.isSome = true
      (e.phase = .retryWait ∨ sending ∨ (e.phase = .idle ∧ e.piece = none ∧ x.next < stop) →
        ∃ t, (∀ received, exec (.abortMark n (.clean received)) s = .next t)
          ∧ exec (.abortMark n .addressRefused) s = .next t
          ∧ (sending → exec (.writeTransaction n .sent) s = .next t
            ∧ exec (.writeTransaction n .unanswered) s = .next t)
          ∧ (if 0 < x.bytesDone ∧ x.entry.address < x.seen.span then framed t
            ∧ (t.engine n).exec = some { x with stage := .reparse .aborted }
            ∧ (t.engine n).piece = none ∧ (t.engine n).descRead = some .header
            ∧ (e.hostTransfer = none → (t.engine n).phase = .addressing
              ∧ (t.engine n).frame = [0xB0, 0x00, 0xB1])
            ∧ s.handed t []
          else ended t (result .aborted 0 x.bytesDone)))
      ∧ ∀ p acked, sending → e.piece = some p → acked < p.length →
        ∃ t, exec (.abortMark n (.dataRefused acked)) s = .next t
          ∧ exec (.writeTransaction n (.dataRefused acked)) s = .next t
          ∧ ended t { result .writeRefused (if acked = 0 then 0 else p.start) x.bytesDone with
              pageUncertain := acked ≠ 0 })

/-- The header of a READING slot's descriptor (R26, R56, R61, R62, R63, R64, R68, R69): its four tests in order
leave the slot READY with raw geometry and the reason of the first that fails; a header that passes all gives
VALID when it declares no extension, else the extension read from address 32. -/
def Obligations.HeaderStageOfFirstRead : Prop :=
  ∀ (s : State) (n : SlotId) (l : List Byte),
    let e := s.engine n
    let byte := fun i => (l.getD i 0).toNat
    let capacity := 256 * 2 ^ (byte 3 % 4)
    let protectEnd := byte 17 + 256 * byte 18
    l.length = 32 → e.phase = .addressing ∨ e.phase = .receiving → e.piece = none → e.closing = false →
    e.descRead = some .header → e.exec = none →
    let reason : Option InvalidReason :=
      if byte 0 ≠ 0xC3 ∨ byte 1 ≠ 0x5A then some .magic
      else if byte 2 ≠ 1 then some .version
      else if (((List.range 30).map byte).sum + byte 31) % 256 ≠ 0 then some .headerCheck
      else if byte 3 / 4 % 4 = 3 ∨ byte 3 / 16 ≠ 0 ∨ 224 < byte 4 ∨ capacity < protectEnd then
        some .geometry
      else none
    ∃ t, exec (.readTransaction n (.data l)) s = .next t
      ∧ t = { s with
        slots := t.slots, engines := t.engines, notices := t.notices, slotDirty := t.slotDirty
        ringDirty := t.ringDirty }
      ∧ (∀ m, m ≠ n → t.slot m = s.slot m ∧ t.engine m = s.engine m)
      ∧ (t.slot n).stuck = 0
      ∧ (reason = none → byte 4 ≠ 0 →
        t.slot n = { s.slot n with stuck := 0 }
        ∧ (t.engine n).phase = .addressing ∧ (t.engine n).frame = [0xB0, 0x20, 0xB1]
        ∧ (t.engine n).attempt = 1
        ∧ ∃ h, (t.engine n).descRead = some (.extension h) ∧ h.extLength = byte 4
          ∧ h.capacity = capacity ∧ h.pageSize = 8 * 2 ^ (byte 3 / 4 % 4)
          ∧ h.protectEnd = max protectEnd (32 + byte 4) ∧ (h.closed = true ↔ byte 30 = 0xC1))
      ∧ (reason ≠ none ∨ byte 4 = 0 →
        t.stateNoticed n ∧ (t.slot n).state = .ready ∧ (t.slot n).reason = .none
        ∧ (t.engine n).phase = .idle ∧ (t.engine n).descRead = none
        ∧ (match reason with
          | some why => t.slot n = { s.slot n with
              stuck := 0, state := .ready, reason := .none
              desc := { state := .invalid why, capacity := 2048, pageSize := 8, identity := none
                        protectEnd := none, closed := false, powerBudget := none, laneWidth := none
                        label := none, unknownCount := none, span := 256 } }
          | none => t.slot n = { s.slot n with
              stuck := 0, state := .ready, reason := .none
              desc := { state := .valid, capacity := capacity, pageSize := 8 * 2 ^ (byte 3 / 4 % 4)
                        identity := some
                          { vendor := BitVec.ofNat 16 (byte 5 + 256 * byte 6)
                            kind := BitVec.ofNat 16 (byte 7 + 256 * byte 8)
                            serial := Vector.ofFn fun i => l.getD (9 + i.val) 0 }
                        protectEnd := some (max protectEnd 32), closed := byte 30 == 0xC1
                        powerBudget := none, laneWidth := none, label := none, unknownCount := some 0
                        span := 32 } }))

/-- The extension walk of a READING slot's descriptor (R65, R66, R67, R69, R26): after any number of well-formed
entries, what stands next in the area decides. Nothing gives EXT_NO_END; a type byte alone EXT_OVERRUN; a length
above 64 ENTRY_LENGTH; a payload past the area EXT_OVERRUN; an END of length other than 1 ENTRY_LENGTH, of a wrong
sum EXT_CHECK, else VALID with the fields of the entries; a second known entry DUPLICATE_ENTRY, and one of a wrong
length or lane width ENTRY_LENGTH. The slot is READY with that verdict. -/
def Obligations.ExtensionWalkDecidesVerdict : Prop :=
  ∀ (s : State) (n : SlotId) (h : Header) (entries : List (Byte × List Byte)) (rest : List Byte),
    let e := s.engine n
    let walked := entries.flatMap fun p => p.1 :: BitVec.ofNat 8 p.2.length :: p.2
    let area := walked ++ rest
    let found := fun type : Byte => (entries.find? fun p => p.1 = type).map Prod.snd
    let byte := fun (l : List Byte) (i : Nat) => (l.getD i 0).toNat
    let fits := fun (type : Byte) (payload : List Byte) =>
      if type = 1 then payload.length = 2
      else if type = 2 then payload.length = 1 ∧ 1 ≤ byte payload 0 ∧ byte payload 0 ≤ 4
      else if type = 3 then 1 ≤ payload.length ∧ payload.length ≤ 32
      else payload.length ≤ 64
    let known := fun type : Byte => type = 1 ∨ type = 2 ∨ type = 3
    (∀ p ∈ entries, p.1 ≠ 0 ∧ fits p.1 p.2) →
    (entries.Pairwise fun p q => known p.1 → p.1 ≠ q.1) →
    area.length = h.extLength → h.extLength ≤ 224 →
    e.phase = .addressing ∨ e.phase = .receiving → e.piece = none → e.closing = false →
    e.descRead = some (.extension h) → e.exec = none →
    let valid : Desc :=
      { state := .valid, capacity := h.capacity, pageSize := h.pageSize, identity := some h.identity
        protectEnd := some h.protectEnd, closed := h.closed
        powerBudget := (found 1).map fun l => BitVec.ofNat 16 (byte l 0 + 256 * byte l 1)
        laneWidth := (found 2).map fun l => byte l 0, label := found 3
        unknownCount := some (entries.filter fun p => ¬ known p.1).length
        span := 32 + h.extLength }
    let verdict : Desc :=
      match rest with
      | [] => Desc.raw (.invalid .extNoEnd)
      | [_] => Desc.raw (.invalid .extOverrun)
      | type :: len :: tail =>
        if 64 < len.toNat then Desc.raw (.invalid .entryLength)
        else if tail.length < len.toNat then Desc.raw (.invalid .extOverrun)
        else if type = 0 then
          if len ≠ 1 then Desc.raw (.invalid .entryLength)
          else if (((walked ++ [type, len]).map fun b => b.toNat).sum + byte tail 0) % 256 ≠ 0 then
            Desc.raw (.invalid .extCheck)
          else valid
        else if known type ∧ (found type).isSome = true then Desc.raw (.invalid .duplicateEntry)
        else Desc.raw (.invalid .entryLength)
    (∀ type len tail, rest = type :: len :: tail → len.toNat ≤ 64 → len.toNat ≤ tail.length → type ≠ 0 →
      (known type ∧ (found type).isSome = true) ∨ ¬ fits type (tail.take len.toNat)) →
    ∃ t, exec (.readTransaction n (.data area)) s = .next t ∧ t.stateNoticed n
      ∧ t = { s with
        slots := t.slots, engines := t.engines, notices := t.notices, slotDirty := t.slotDirty
        ringDirty := t.ringDirty }
      ∧ (∀ m, t.slot m = if m = n then
          { s.slot n with stuck := 0, state := .ready, reason := .none, desc := verdict } else s.slot m)
      ∧ (∀ m, m ≠ n → t.engine m = s.engine m)
      ∧ (t.engine n).phase = .idle ∧ (t.engine n).descRead = none ∧ (t.engine n).exec = none

/-- The end of a re-parse or REFRESH of a READY slot (R69, R74 to R78, R133, R162): a verdict reached, ABSENT after
three refusals, or ABSENT after a stuck episode. All fields are written in one step, DESCRIPTOR_CHANGED is handed
over exactly where an item of R76 changed, a lost lane width ends the hold or the wait, and the WRITE completes with
its own status (REPARSE_FAILED where the read failed), the REFRESH with SUCCESS, NO_RESPONSE or BUS_STUCK and the
descriptor state as detail. A header that passes with an extension has the extension read first. A stuck count that
reaches 2 takes the slot to FAULT(BUS_STUCK) after that completion. -/
def Obligations.ReparseAndRefreshEnd : Prop :=
  (∀ old new : Desc,
    let bit := fun i => (changeMask old new).getLsbD i
    (bit 0 = true ↔ old.state ≠ new.state) ∧ (bit 1 = true ↔ old.closed ≠ new.closed)
    ∧ (bit 2 = true ↔ old.capacity ≠ new.capacity ∨ old.pageSize ≠ new.pageSize)
    ∧ (bit 3 = true ↔ old.protectEnd ≠ new.protectEnd)
    ∧ (bit 4 = true ↔ old.powerBudget ≠ new.powerBudget)
    ∧ (bit 5 = true ↔ old.laneWidth ≠ new.laneWidth) ∧ (bit 6 = true ↔ old.label ≠ new.label))
  ∧ ∀ (s : State) (n : SlotId) (x : Execution) (d : DescRead),
    let e := s.engine n
    let old := (s.slot n).desc
    let final := match x.stage with
      | .reparse status => some status
      | _ => none
    let absent := Desc.raw .absent
    let completion := fun (v : Desc) (failed : Bool) (status : Status) =>
      match final with
      | some own => { completionOf x.entry.ring x.entry.tag n.val x.entry.ringHead own x.seen.generation 0 with
          bytesDone := x.bytesDone, reparseFailed := failed }
      | none => completionOf x.entry.ring x.entry.tag n.val x.entry.ringHead status x.seen.generation
          v.state.detail
    let lost := fun v : Desc => old.laneWidth.isSome = true ∧ v.laneWidth = none
    let claims := fun v : Desc => if lost v then
        (s.lane.waiters.filter fun w => w.slot = n).map fun w =>
          completionOf w.ring w.tag n.val w.ringHead .laneUnavailable (s.slot n).generation 0
      else []
    let noticed := fun (t : State) (v : Desc) =>
      (changeMask old v ≠ 0 → t.changeNoticed n (changeMask old v))
    let written := fun (t : State) (v : Desc) (c : Completion) =>
      t = { s with
        slots := t.slots, engines := t.engines, compRings := t.compRings, notices := t.notices
        slotDirty := t.slotDirty, ringDirty := t.ringDirty, lane := t.lane }
      ∧ noticed t v
      ∧ (changeMask old v = 0 →
        t.notices = s.notices ∧ t.slotDirty = s.slotDirty ∧ t.ringDirty = s.ringDirty)
      ∧ t.lane = (if ¬ lost v then s.lane
        else if s.lane.holder = some n then { s.lane with
          state := if s.lane.waiters = [] then .free else .settling, holder := none, holderRing := none
          settleTimer := if s.lane.waiters = [] then none else some s.lane.settleInterval, len := false }
        else { s.lane with waiters := s.lane.waiters.filter fun w => w.slot ≠ n })
      ∧ (∀ m, m ≠ n → t.slot m = s.slot m ∧ t.engine m = s.engine m)
      ∧ t.slot n = { s.slot n with
        desc := v, stuck := (t.slot n).stuck
        laneRole := if lost v ∧ (s.lane.holder = some n ∨ ∃ w ∈ s.lane.waiters, w.slot = n) then .none
          else (s.slot n).laneRole }
      ∧ (t.engine n).phase = .idle ∧ (t.engine n).exec = none ∧ (t.engine n).descRead = none
      ∧ (t.engine n).pendingList = e.pendingList
      ∧ s.handed t (claims v ++ [c])
    s.lane.Sound → e.exec = some x → (final.isSome = true ∨ x.stage = .refreshing) →
    e.descRead = some d → e.piece = none → e.closing = false → s.deferredOff n = none →
    (e.phase = .addressing ∨ e.phase = .receiving →
      (∀ l : List Byte,
        (d = .header ∧ l.length = 32) ∨ (∃ h, d = .extension h ∧ l.length = h.extLength ∧ h.extLength ≤ 224) →
        let verdict := match d with
          | .header => (match parseHeader l with
            | .inl why => some (Desc.raw (.invalid why))
            | .inr h => if h.extLength = 0 then some (validDesc h ExtFields.start) else none)
          | .extension h => some (parseExtension h l)
        ∃ t, exec (.readTransaction n (.data l)) s = .next t
          ∧ (∀ v, verdict = some v → written t v (completion v false .success) ∧ (t.slot n).stuck = 0)
          ∧ (verdict = none → ∃ h, parseHeader l = .inr h
            ∧ t = { s with slots := t.slots, engines := t.engines }
            ∧ (∀ m, t.slot m = if m = n then { s.slot n with stuck := 0 } else s.slot m)
            ∧ (∀ m, m ≠ n → t.engine m = s.engine m)
            ∧ (t.engine n).exec = some x ∧ (t.engine n).descRead = some (.extension h)
            ∧ (t.engine n).phase = .addressing ∧ (t.engine n).frame = [0xB0, 0x20, 0xB1]))
      ∧ (3 ≤ e.attempt → ∃ t, exec (.readTransaction n .unanswered) s = .next t
        ∧ written t absent (completion absent true .noResponse) ∧ (t.slot n).stuck = 0))
    ∧ (e.phase = .recovery → (s.slot n).state = .ready → ∀ scl sda,
      ∃ t, exec (.recoveryEnd n scl sda) s = .next t
        ∧ ((s.slot n).stuck = 0 →
          written t absent (completion absent true .busStuck) ∧ (t.slot n).stuck = 1)
        ∧ (0 < (s.slot n).stuck → noticed t absent ∧ t.stateNoticed n
          ∧ (t.slot n).state = .fault ∧ (t.slot n).reason = .busStuck ∧ (t.slot n).pwren = false
          ∧ (t.slot n).stuck = 2 ∧ (t.slot n).desc = absent
          ∧ (t.engine n).phase = .idle ∧ (t.engine n).exec = none ∧ (t.engine n).pendingList = []
          ∧ ∀ c, ∃ more, (t.comp c).results = (s.comp c).results
            ++ s.goingTo c (claims absent ++ [completion absent true .busStuck]) ++ more))

/-! ### Rings -/

/-- POST by the table of R83, with what FAULTED brings (R97): halted or not ACTIVE, and a tail that withdraws
records, are ignored with POST_ERROR; a tail outside the ring faults it; any other is taken. -/
def Obligations.PostActsByTable : Prop :=
  ∀ (s : State) (r : RingId) (v : Half), s.inReset = false →
    let x := s.ring r
    let ahead := fun i => (i + x.size - x.head) % x.size
    (s.condition = .halted ∨ x.state ≠ .active →
      exec (.post r v) s = .next { s with postError := true })
    ∧ (s.condition ≠ .halted → x.state = .active → v.toNat < x.size →
      exec (.post r v) s = .next (if ahead v.toNat < ahead x.tail then { s with postError := true }
        else s.setRing r { x with tail := v.toNat }))
    ∧ (s.condition ≠ .halted → x.state = .active → x.size ≤ v.toNat →
      let held := match x.staging with
        | .holding _ => true
        | _ => false
      ∃ t, exec (.post r v) s = .next t ∧ t.faultNoticed r .badTail x.head
        ∧ t = { s with
          rings := t.rings, compRings := t.compRings, waitOrders := t.waitOrders, notices := t.notices
          slotDirty := t.slotDirty, ringDirty := t.ringDirty }
        ∧ (∀ q, t.ring q = if q = r then
            { x with state := .faulted, staging := if held then .empty else x.staging } else s.ring q)
        ∧ (∀ c, t.comp c = if held = true ∧ x.bound = some c then
            { s.comp c with reserved := (s.comp c).reserved - 1 } else s.comp c)
        ∧ ∀ n, t.waitOrder n = if held then (s.waitOrder n).filter fun q => q ≠ r else s.waitOrder n)

/-- TAKEN by the table of R84: an index the target cannot have reached, an ABSENT target, a number that names no
ring and a halted device are ignored with POST_ERROR; any other index is taken, unconsumed falls, and the vector is
raised again while entries remain (R171). With room in the notice ring and no notice write in progress, the
lowest-numbered dirty slot, else ring, has its merged record written and its flag cleared (R168, R169). -/
def Obligations.TakenActsByTable : Prop :=
  ∀ (s : State) (v : Half), s.inReset = false →
    (∀ target : Fin 8, s.condition = .halted ∨ 4 < target.val →
      exec (.taken target v) s = .next { s with postError := true })
    ∧ (∀ c : CompRingId, s.condition ≠ .halted →
      let x := s.comp c
      let moved := (v.toNat + x.size - x.consumed) % x.size
      if x.active = true ∧ v.toNat < x.size ∧ moved ≤ x.unconsumed then
        ∃ t, exec (.taken (c.castLE (by decide)) v) s = .next t
          ∧ t = { s.setComp c { x with consumed := v.toNat, unconsumed := x.unconsumed - moved } with
            vectorPending := t.vectorPending, messagesSent := t.messagesSent }
          ∧ s.raises t (if 0 < moved ∧ moved < x.unconsumed then x.vector else none)
      else exec (.taken (c.castLE (by decide)) v) s = .next { s with postError := true })
    ∧ (s.condition ≠ .halted →
      let x := s.notices
      let moved := (v.toNat + x.size - x.consumed) % x.size
      let room := x.writing = none ∧ x.unconsumed - moved < x.size - 1
      if x.active = true ∧ v.toNat < x.size ∧ moved ≤ x.unconsumed then
        ∃ t, exec (.taken 4 v) s = .next t
          ∧ t = { s with
            notices := { x with
              consumed := v.toNat, unconsumed := x.unconsumed - moved, writing := t.notices.writing }
            slotDirty := t.slotDirty, ringDirty := t.ringDirty, vectorPending := t.vectorPending
            messagesSent := t.messagesSent }
          ∧ s.raises t (if 0 < moved ∧ moved < x.unconsumed then some 4 else none)
          ∧ (¬ room ∨ ((∀ n, (s.dirtySlot n).set = false) ∧ ∀ r, (s.dirtyRing r).fault = none) →
            t.notices.writing = x.writing ∧ t.slotDirty = s.slotDirty ∧ t.ringDirty = s.ringDirty)
          ∧ (∀ n, room → (s.dirtySlot n).set = true → (∀ m, m < n → (s.dirtySlot m).set = false) →
            let d := s.dirtySlot n
            t.notices.writing = some (.slot n d.stateKind d.changedKind d.mask,
              { address := x.base + BitVec.ofNat 64 (16 * x.produce), moot := false
                bytes := noticeBytes (if d.stateKind then 1 else 2) n.val (s.slot n).state.code
                  (s.slot n).reason.code (s.slot n).generation (s.slot n).desc.state
                  (2 + (if x.phase then 1 else 0)) d.mask.toNat })
            ∧ t.ringDirty = s.ringDirty ∧ ∀ m, t.dirtySlot m = if m = n then
                { set := false, stateKind := false, changedKind := false, mask := 0 } else s.dirtySlot m)
          ∧ (∀ r cause head, room → (∀ n, (s.dirtySlot n).set = false) →
            (s.dirtyRing r).fault = some (cause, head) → (∀ q, q < r → (s.dirtyRing q).fault = none) →
            t.notices.writing = some (.ring r cause head,
              { address := x.base + BitVec.ofNat 64 (16 * x.produce), moot := false
                bytes := noticeBytes 3 r.val (s.ring r).state.code 0 0 .none
                  (2 + (if x.phase then 1 else 0)) (cause.code + 65536 * head) })
            ∧ t.slotDirty = s.slotDirty ∧ ∀ q, (t.dirtyRing q).fault
                = if q = r then none else (s.dirtyRing q).fault)
      else exec (.taken 4 v) s = .next { s with postError := true })

/-- The fetch arbiter's choice (R82, R85, R86, R87): with the read path free, the first eligible ring from the
pointer on is fetched, its completion ring reserving an entry; with none, or a read in progress, nothing happens. -/
def Obligations.FetchTakesFirstEligible : Prop :=
  ∀ s : State,
    let eligible := fun r : RingId => s.condition ≠ .halted ∧ (s.ring r).state = .active
      ∧ (s.ring r).head ≠ (s.ring r).tail ∧ (s.ring r).staging = .empty
      ∧ ∃ c, (s.ring r).bound = some c ∧ (s.comp c).unconsumed + (s.comp c).reserved < (s.comp c).size - 1
    (s.recordRead = none → ∀ k : Fin 8, eligible (s.roundRobin + k) →
      (∀ j, j < k → ¬ eligible (s.roundRobin + j)) → ∀ c, (s.ring (s.roundRobin + k)).bound = some c →
      let r := s.roundRobin + k
      exec .fetchStart s = .next
        { (s.setComp c { s.comp c with reserved := (s.comp c).reserved + 1 }).setRing r
            { s.ring r with staging := .fetching } with
          recordRead := some
            { ring := r, moot := false
              address := (s.ring r).base + BitVec.ofNat 64 (32 * (s.ring r).head) }
          roundRobin := r + 1 })
    ∧ (s.recordRead ≠ none ∨ (∀ r, ¬ eligible r) → exec .fetchStart s = .next s)

/-- The end of a record read (R87, R97, R99, R179): the ring no longer ACTIVE, the device halted, and the
failed read of ring 1 to 7 or of ring 0, by the first case that holds. The model's own choice in it: log entry
18 (a read that ends in a halt). -/
def Obligations.RecordReadFailsByFirstCase : Prop :=
  ∀ (s : State) (f : RecordRead) (record : Option (Vector Byte 32)) (c : CompRingId),
    s.recordRead = some f → f.moot = false → (s.ring f.ring).bound = some c →
    let r := f.ring
    let x := s.ring r
    let u := { s.setRing r { x with staging := .empty } with recordRead := none }
    let returned := u.setComp c { s.comp c with reserved := (s.comp c).reserved - 1 }
    (x.state ≠ .active → x.state ≠ .draining ∨ x.tags ≠ [] ∨ s.condition = .halted →
      exec (.recordReadDone record) s = .next returned)
    ∧ (∀ tag head ended, x.state = .draining → x.tags = [] → s.condition ≠ .halted →
      s.deferredDelete r = some (tag, head, ended) → r ≠ 0 →
      ∃ t, exec (.recordReadDone record) s = .next t
        ∧ (t.ring r).state = .absent ∧ (t.ring r).bound = none ∧ t.deferredDelete r = none
        ∧ returned.handed t [completionOf 0 tag 0 head .success 0 ended]
        ∧ t = { s with
          recordRead := none, rings := t.rings, deferred := t.deferred, compRings := t.compRings })
    ∧ (x.state = .active → s.condition = .halted → exec (.recordReadDone record) s = .next u)
    ∧ (x.state = .active → s.condition = .running → r ≠ 0 →
      ∃ t, exec (.recordReadDone none) s = .next t ∧ t.faultNoticed r .readError x.head
        ∧ t = { returned.setRing r { x with state := .faulted, staging := .empty } with
          notices := t.notices, slotDirty := t.slotDirty, ringDirty := t.ringDirty })
    ∧ (x.state = .active → s.condition = .running → r = 0 →
      ∃ t, exec (.recordReadDone none) s = .next t
        ∧ t = { u with
          condition := .halted, haltCause := .controlFetch, slots := t.slots, engines := t.engines
          notices := t.notices, slotDirty := t.slotDirty, ringDirty := t.ringDirty, lane := t.lane, freeCount := t.freeCount }
        ∧ ∀ n, (t.engine n).exec = none)

/-- Where a valid record goes (R2, R91, R92, R102): a memory request to its slot's list, its wait order, or
NOT_READY at once where the slot is EMPTY, HELD or FAULT; a control request to the control unit when it is free. -/
def Obligations.ValidRecordDispatched : Prop :=
  ∀ (s : State) (f : RecordRead) (l : Vector Byte 32) (q : Request),
    s.recordRead = some f → f.moot = false → (s.ring f.ring).state = .active → s.condition ≠ .halted →
    validate f.ring (s.ring f.ring).tags l.toList = .valid q →
    let r := f.ring
    let x := s.ring r
    let n := q.slot
    let e := s.engine n
    let u := { s with recordRead := none }
    let head := if x.head + 1 < x.size then x.head + 1 else 0
    (q.kind = .read ∨ q.kind = .write ∨ q.kind = .compare ∨ q.kind = .refresh ∨ q.kind = .lock
        ∨ q.kind = .unlock →
      ((s.slot n).state = .empty ∨ (s.slot n).state = .held ∨ (s.slot n).state = .fault →
        ∃ t, exec (.recordReadDone (some l)) s = .next t
          ∧ t = { u.setRing r (x.taken q.tag) with compRings := t.compRings }
          ∧ s.handed t [completionOf r q.tag n.val head .notReady (s.slot n).generation 0])
      ∧ ((s.slot n).state ≠ .empty → (s.slot n).state ≠ .held → (s.slot n).state ≠ .fault →
        exec (.recordReadDone (some l)) s = .next
          (if e.pendingList.length < 4 ∧ s.waitOrder n = [] then
            (u.setRing r (x.taken q.tag)).setEngine n { e with
              pendingList := e.pendingList ++
                [{ kind := q.kind, ring := r, tag := q.tag, generation := q.generation
                   address := q.address, length := q.length, buffer := q.buffer, ringHead := head }] }
          else (u.setRing r { x with staging := .holding q }).setWaitOrder n (s.waitOrder n ++ [r]))))
    ∧ (q.kind.isControl = true →
      exec (.recordReadDone (some l)) s = .next
        (if s.control = none then
          { u.setRing r (x.taken q.tag) with control := some { req := q, ringHead := head } }
        else u.setRing r { x with staging := .holding q }))

/-- Validation of a record read from host memory, of every kind and on every ring, in its four steps (R88, R90, R103,
R184, R191): INVALID_KIND for a value that names no kind and for a kind of the other family, control kinds being those
of ring 0; INVALID_FIELD with the offset of the lowest-placed wrong field, a field the kind does not use being wrong
when it is not 0 and a used one outside its range; the range's end beyond 2048; a tag in use; else the request with
its fields; and what a refusal hands over. The model's own choice in it: log entry 19 (which offset names a wrong
field). -/
def Obligations.MemoryRecordValidated : Prop :=
  ∀ (r : RingId) (tags : List Half) (v : Vector Byte 32),
    let l := v.toList
    let byte := fun i => (l.getD i 0).toNat
    let half := fun i => byte i + 256 * byte (i + 1)
    let k := byte 0
    let kinds := [(0x01, Kind.read), (0x02, .write), (0x03, .compare), (0x04, .refresh), (0x05, .lock),
      (0x06, .unlock), (0x07, .claimLane), (0x08, .releaseLane), (0x10, .createRequestRing),
      (0x11, .deleteRequestRing), (0x12, .createCompletionRing), (0x13, .deleteCompletionRing),
      (0x14, .setNoticeRing), (0x15, .configureSlot), (0x16, .slotPower), (0x17, .readSlotRecord),
      (0x18, .abort), (0x19, .laneControl)]
    let usesSlot := k < 0x10 ∨ k = 0x15 ∨ k = 0x16 ∨ k = 0x17
    let usesRange := k = 1 ∨ k = 2 ∨ k = 3 ∨ k = 5 ∨ k = 6
    let usesAux := k = 7 ∨ (0x10 ≤ k ∧ k ≠ 0x17)
    let outside := fun value low high : Nat => value < low ∨ high < value
    let filled := fun i n : Nat => ∃ j, j < n ∧ byte (i + j) ≠ 0
    let aux : Nat → Prop := fun i =>
      if i = 12 then
        if k = 7 then 60000 < half 12 ∧ half 12 ≠ 65535
        else if k = 0x10 ∨ k = 0x11 ∨ k = 0x18 then outside (byte 12) 1 7
        else if k = 0x12 ∨ k = 0x13 then outside (byte 12) 1 3
        else if k = 0x15 then (byte 12).testBit 3 = true
        else if k = 0x16 ∨ k = 0x19 then 1 < byte 12
        else byte 12 ≠ 0
      else if i = 13 then
        if k = 7 then False
        else if k = 0x10 then 3 < byte 13
        else if k = 0x12 then outside (byte 13) 1 3
        else if k = 0x15 then byte 13 < 4
        else if k = 0x19 ∧ byte 12 ≠ 0 then outside (byte 13) 1 50
        else byte 13 ≠ 0
      else if i = 14 then
        if k = 0x10 ∨ k = 0x12 then outside (half 14) 2 1024
        else if k = 0x14 then half 14 ≠ 0 ∧ outside (half 14) 2 256
        else if k = 0x15 then outside (half 14 % 32) 1 25 ∨ outside (half 14 / 32) 20 500
        else if k = 0x18 then False
        else byte 14 ≠ 0
      else if k = 0x10 ∨ k = 0x12 ∨ k = 0x14 ∨ k = 0x15 ∨ k = 0x18 then False
      else byte 15 ≠ 0
    let wrong : Nat → Prop := fun i =>
      if i = 4 then (if usesSlot then 7 < byte 4 else byte 4 ≠ 0)
      else if i = 6 then ¬ k ≤ 7 ∧ half 6 ≠ 0
      else if i = 8 then ¬ usesRange ∧ half 8 ≠ 0
      else if i = 10 then (if usesRange then half 10 = 0 else half 10 ≠ 0)
      else if 12 ≤ i ∧ i < 16 then (if usesAux then aux i else i = 12 ∧ filled 12 4)
      else if i = 16 then
        if k = 1 ∨ k = 2 ∨ k = 3 ∨ k = 0x17 then False
        else if k = 0x10 ∨ k = 0x12 ∨ (k = 0x14 ∧ half 14 ≠ 0) then byte 16 % 64 ≠ 0
        else filled 16 8
      else byte i ≠ 0
    let fields := [1, 4, 5, 6, 8, 10, 12, 13, 14, 15, 16, 24, 25, 26, 27, 28, 29, 30, 31]
    (∀ p ∈ kinds, k = p.1 → (r = 0 ↔ 0x10 ≤ k) →
      (∀ i ∈ fields, wrong i → (∀ j ∈ fields, j < i → ¬ wrong j) →
        validate r tags l = .refuse .invalidField i)
      ∧ ((∀ i ∈ fields, ¬ wrong i) →
        (usesRange → 2048 < half 8 + half 10 →
          validate r tags l = .refuse .outOfRange (half 8 + half 10))
        ∧ ((usesRange → half 8 + half 10 ≤ 2048) → BitVec.ofNat 16 (half 2) ∈ tags →
          validate r tags l = .refuse .duplicateTag 0)
        ∧ ((usesRange → half 8 + half 10 ≤ 2048) → BitVec.ofNat 16 (half 2) ∉ tags →
          ∃ q, validate r tags l = .valid q ∧ q.kind = p.2 ∧ q.tag = BitVec.ofNat 16 (half 2)
            ∧ q.slot.val = byte 4 ∧ q.generation = BitVec.ofNat 16 (half 6) ∧ q.address = half 8
            ∧ q.length = half 10 ∧ q.aux = BitVec.ofNat 32 (half 12 + 2 ^ 16 * half 14)
            ∧ q.buffer = BitVec.ofNat 64
              (half 16 + 2 ^ 16 * half 18 + 2 ^ 32 * half 20 + 2 ^ 48 * half 22))))
    ∧ ((∀ p ∈ kinds, k ≠ p.1) ∨ ¬ (r = 0 ↔ 0x10 ≤ k) →
      validate r tags l = .refuse .invalidKind k)
    ∧ ∀ (s : State) (f : RecordRead) (status : Status) (detail : Nat),
      s.recordRead = some f → f.moot = false → f.ring = r → (s.ring r).state = .active →
      s.condition ≠ .halted → validate r (s.ring r).tags l = .refuse status detail →
      ∃ t, exec (.recordReadDone (some v)) s = .next t
        ∧ t = { s.setRing r { s.ring r with staging := .refused } with
          recordRead := none, compRings := t.compRings }
        ∧ s.handed t [{ completionOf r (BitVec.ofNat 16 (half 2)) (byte 4)
              (if (s.ring r).head + 1 < (s.ring r).size then (s.ring r).head + 1 else 0) status 0 detail with
            refused := true }]

/-- A completion record has been written (R82, R90, R94, R107, R118, R171): it is counted, its request ceases
to be outstanding or its refused record is taken, the vector is raised from an empty ring, and an ABORT of the
request and the drain of its ring complete when they waited for it, in no fixed order. The next result of the ring is
then being written, to base + 16 × the new produce index and with the phase now in force, and so it is at the end of
a moot write (R100). The 16 bytes are those of R185 with the status codes of R191. Every step of a device that is not
halted keeps every completion ring posting: a result waits only behind a write in progress, and that write carries
the bytes of its result to the place of the produce index. The model's own choice in it: log entries 17 (what becomes
moot at a function reset) and 18 (a write that ends in a halt is not counted). -/
def Obligations.CompletionCountedWhenWritten : Prop :=
  (∀ (s : State) (c : CompRingId) (r : Completion) (w : RecordWrite),
    (s.comp c).writing = some (r, w) → w.moot = false →
    let x := s.comp c
    let y := s.ring r.ring
    let done := if r.refused then
        { y with head := if y.head + 1 < y.size then y.head + 1 else 0, staging := .empty }
      else { y with tags := y.tags.erase r.tag }
    let aborted := if r.refused then [] else match s.deferredAbort r.ring r.tag with
      | some (tag, head) => [completionOf 0 tag 0 head
          (if r.status = .aborted then .success else .tooLate) 0 r.status.code]
      | none => []
    let drained := done.state = .draining ∧ done.tags = [] ∧ done.staging = .empty
      ∧ s.deferredDelete r.ring ≠ none
    let deleted := match s.deferredDelete r.ring with
      | some (tag, head, ended) => if drained then [completionOf 0 tag 0 head .success 0 ended] else []
      | none => []
    (s.condition = .halted →
      exec (.completionWriteDone c) s = .next (s.setComp c { x with writing := none }))
    ∧ (s.condition ≠ .halted →
      ∃ t, exec (.completionWriteDone c) s = .next t
        ∧ t = { s with
          compRings := t.compRings, rings := t.rings, deferred := t.deferred, freeCount := t.freeCount
          vectorPending := t.vectorPending, messagesSent := t.messagesSent }
        ∧ (∀ q, t.ring q = if q ≠ r.ring then s.ring q else if drained then
            { state := .absent, base := 0, size := 0, head := 0, tail := 0, bound := none
              staging := .empty, tags := [] } else done)
        ∧ s.raises t (if x.unconsumed = 0 then x.vector else none)
        ∧ (∀ d, (t.comp d).active = (s.comp d).active ∧ (t.comp d).base = (s.comp d).base
          ∧ (t.comp d).size = (s.comp d).size ∧ (t.comp d).consumed = (s.comp d).consumed
          ∧ (t.comp d).vector = (s.comp d).vector
          ∧ (t.comp d).reserved = (if d = c then x.reserved - 1 else (s.comp d).reserved)
          ∧ (t.comp d).unconsumed = (if d = c then x.unconsumed + 1 else (s.comp d).unconsumed)
          ∧ (t.comp d).produce = (if d = c then (if x.produce + 1 < x.size then x.produce + 1 else 0)
              else (s.comp d).produce)
          ∧ (t.comp d).phase = (if d = c ∧ x.size ≤ x.produce + 1 then !x.phase else (s.comp d).phase))
        ∧ (r.refused = false → t.deferredAbort r.ring r.tag = none)
        ∧ ∃ rs, rs.Perm (aborted ++ deleted) ∧ ∀ d, (t.comp d).results
          = (if d = c then x.queue else (s.comp d).results) ++ t.goingTo d rs
        ∧ (t.comp c).writing = (match (t.comp c).results with
          | [] => none
          | q :: _ => some (q,
              { address := x.base + BitVec.ofNat 64 (16 * (t.comp c).produce)
                bytes := q.bytes (t.comp c).phase, moot := false }))
        ∧ (t.comp c).queue = (t.comp c).results.tail
        ∧ ∀ d, d ≠ c → (s.comp d).Posting → (∀ q, (s.ring q).bound = some d → (s.comp d).active = true) →
          (t.comp d).Posting))
  ∧ (∀ (s : State) (c : CompRingId) (i : Instr) (r : Completion) (w : RecordWrite),
    (s.comp c).writing = some (r, w) → w.moot = true →
    i = .completionWriteDone c ∨ i = .completionWriteFailed c →
    let x := s.comp c
    exec i s = .next (s.setComp c (match x.queue with
      | [] => { x with writing := none }
      | q :: rest =>
        if s.condition = .halted then { x with writing := none }
        else { x with
          queue := rest
          writing := some (q,
            { address := x.base + BitVec.ofNat 64 (16 * x.produce), bytes := q.bytes x.phase
              moot := false }) })))
  ∧ (∀ s t : State, s.RequestsSound → s.PosterSound → step s = .next t → t.PosterSound)
  ∧ (∀ (r : Completion) (phase : Bool),
    let b := fun v => BitVec.ofNat 8 v
    r.bytes phase = [b r.tag.toNat, b (r.tag.toNat / 2 ^ 8), b r.ring.val, b r.status.code, b r.slot,
      b ((if phase then 1 else 0) + (if r.pageUncertain then 2 else 0) + (if r.reparseFailed then 4 else 0)),
      b r.generation.toNat, b (r.generation.toNat / 2 ^ 8), b r.bytesDone, b (r.bytesDone / 2 ^ 8),
      b r.ringHead, b (r.ringHead / 2 ^ 8), b r.detail, b (r.detail / 2 ^ 8), b (r.detail / 2 ^ 16),
      b (r.detail / 2 ^ 24)])
  ∧ [Status.success, .granted, .mismatch, .invalidKind, .invalidField, .outOfRange, .duplicateTag, .notReady,
    .stale, .protectedArea, .locked, .busStuck, .conflict, .overlap, .tableFull, .notHeld, .alreadyHeld,
    .duplicate, .laneBusy, .laneUnavailable, .timeout, .noResponse, .writeTimeout, .writeRefused, .removed,
    .powerFault, .poweredOff, .aborted, .tooLate, .ringDeleted, .notFound, .busy, .inUse, .hostReadError,
    .hostWriteError].map Status.code = List.range 35

/-- A notice record has been written (R82, R167, R169, R171): it is counted, vector 4 is raised from an empty
ring, and with room left the lowest-numbered dirty slot, else ring, has its merged record written and its flag
cleared. A notice handed over while a record may be written and no flag is set is written at once, whatever command
hands it over, with MERGED clear, to base + 16 × produce index and with the values of its transition, its re-parse or
its fault (R166, R167). The 16 bytes are those of R186 with the codes of R191. Every step of a device that is not
halted keeps a notice write in progress at the place of the produce index, and no flag standing while a record may be
written (R169). The model's own choice in it: log entry 18 (a write
that ends in a halt is not counted). -/
def Obligations.NoticeCountedWhenWritten : Prop :=
  (∀ (s : State) (p : Report) (w : RecordWrite), s.notices.writing = some (p, w) → w.moot = false →
    let x := s.notices
    let produce := if x.produce + 1 < x.size then x.produce + 1 else 0
    let room := x.active = true ∧ x.unconsumed + 1 < x.size - 1
    (s.condition = .halted → exec .noticeWriteDone s = .next { s with notices := { x with writing := none } })
    ∧ (s.condition ≠ .halted →
      ∃ t, exec .noticeWriteDone s = .next t
        ∧ t = { s with
          notices := { x with
            writing := t.notices.writing, unconsumed := x.unconsumed + 1, produce := produce
            phase := if x.produce + 1 < x.size then x.phase else !x.phase }
          slotDirty := t.slotDirty, ringDirty := t.ringDirty, vectorPending := t.vectorPending
          messagesSent := t.messagesSent }
        ∧ s.raises t (if x.unconsumed = 0 then some 4 else none)
        ∧ (¬ room ∨ ((∀ n, (s.dirtySlot n).set = false) ∧ ∀ r, (s.dirtyRing r).fault = none) →
          t.notices.writing = none ∧ t.slotDirty = s.slotDirty ∧ t.ringDirty = s.ringDirty)
        ∧ (∀ n, room → (s.dirtySlot n).set = true → (∀ m, m < n → (s.dirtySlot m).set = false) →
          let d := s.dirtySlot n
          t.notices.writing = some (.slot n d.stateKind d.changedKind d.mask,
            { address := x.base + BitVec.ofNat 64 (16 * produce), moot := false
              bytes := noticeBytes (if d.stateKind then 1 else 2) n.val (s.slot n).state.code
                (s.slot n).reason.code (s.slot n).generation (s.slot n).desc.state
                (2 + (if t.notices.phase then 1 else 0)) d.mask.toNat })
          ∧ t.ringDirty = s.ringDirty ∧ ∀ m, t.dirtySlot m = if m = n then
              { set := false, stateKind := false, changedKind := false, mask := 0 } else s.dirtySlot m)
        ∧ (∀ r cause head, room → (∀ n, (s.dirtySlot n).set = false) →
          (s.dirtyRing r).fault = some (cause, head) → (∀ q, q < r → (s.dirtyRing q).fault = none) →
          t.notices.writing = some (.ring r cause head,
            { address := x.base + BitVec.ofNat 64 (16 * produce), moot := false
              bytes := noticeBytes 3 r.val (s.ring r).state.code 0 0 .none
                (2 + (if t.notices.phase then 1 else 0)) (cause.code + 65536 * head) })
          ∧ t.slotDirty = s.slotDirty ∧ ∀ q, (t.dirtyRing q).fault
              = if q = r then none else (s.dirtyRing q).fault)))
  ∧ (∀ (c : Instr) (s t : State), exec c s = .next t → t.condition = s.condition → s.condition ≠ .halted →
    s.notices.active = true → s.notices.unconsumed < s.notices.size - 1 → s.notices.writing = none →
    s.noneDirty →
    (t.notices.writing = none → t.noneDirty)
    ∧ ∀ (p : Report) (w : RecordWrite), t.notices.writing = some (p, w) →
      let phase := if s.notices.phase then 1 else 0
      w.moot = false ∧ w.address = s.notices.base + BitVec.ofNat 64 (16 * s.notices.produce)
      ∧ match p with
        | .slot n true changed mask => changed = false ∧ mask = 0
          ∧ w.bytes = noticeBytes 1 n.val (t.slot n).state.code (t.slot n).reason.code
            (t.slot n).generation (t.slot n).desc.state phase 0
        | .slot n false changed mask => changed = true ∧ mask ≠ 0
          ∧ w.bytes = noticeBytes 2 n.val (s.slot n).state.code (s.slot n).reason.code
            (s.slot n).generation
            (if (t.slot n).state = .empty then .absent else (t.slot n).desc.state) phase mask.toNat
        | .ring r cause head => (t.ring r).state = .faulted ∧ head = (s.ring r).head
          ∧ w.bytes = noticeBytes 3 r.val 2 0 0 .none phase (cause.code + 65536 * head))
  ∧ (∀ s t : State, s.NoticesSound → step s = .next t → t.NoticesSound)
  ∧ (∀ (kind subject state reason : Nat) (generation : Half) (desc : DescState) (flags detail : Nat),
    let b := fun v => BitVec.ofNat 8 v
    noticeBytes kind subject state reason generation desc flags detail
      = [b kind, b subject, b state, b reason, b generation.toNat, b (generation.toNat / 2 ^ 8),
        b (match desc with
          | .none => 0
          | .valid => 1
          | .invalid _ => 2
          | .absent => 3),
        b (match desc with
          | .invalid .magic => 1
          | .invalid .version => 2
          | .invalid .headerCheck => 3
          | .invalid .geometry => 4
          | .invalid .extOverrun => 5
          | .invalid .extNoEnd => 6
          | .invalid .extCheck => 7
          | .invalid .duplicateEntry => 8
          | .invalid .entryLength => 9
          | .none | .valid | .absent => 0),
        b flags, 0, 0, 0, b detail, b (detail / 2 ^ 8), b (detail / 2 ^ 16), b (detail / 2 ^ 24)])
  ∧ [SlotState.empty, .settling, .probing, .powering, .reading, .ready, .held, .fault].map SlotState.code
    = List.range 8
  ∧ [Reason.none, .noSense, .badSense, .classBlocked, .manualOff, .pgTimeout, .powerLost, .busStuck].map
    Reason.code = List.range 8
  ∧ [RingState.absent, .active, .faulted, .draining].map RingState.code = List.range 4
  ∧ [FaultCause.badTail, .readError].map FaultCause.code = [1, 2]

/-! ### Control requests -/

/-- CREATE_REQUEST_RING (R80, R102, R104, R105): IN_USE where the ring is not ABSENT, INVALID_FIELD where the
completion ring is not ACTIVE (its detail is log entry 20), else the ring is ACTIVE as the record says; the
control unit is free again. -/
def Obligations.CreateRequestRingByTable : Prop :=
  ∀ (s : State) (c : ControlExec) (r : RingId) (k : CompRingId),
    s.control = some c → c.req.kind = .createRequestRing → s.condition ≠ .halted →
    c.req.aux.toNat % 256 = r.val → r ≠ 0 → c.req.aux.toNat / 256 % 256 = k.val →
    ∃ u t, exec .createRequestRing s = .next t ∧ u.freed t
      ∧ u = { s with rings := u.rings, compRings := u.compRings }
      ∧ (∀ q, q ≠ r → u.ring q = s.ring q)
      ∧ u.ring r = (if (s.ring r).state = .absent ∧ (s.comp k).active = true then
          { state := .active, base := c.req.buffer, size := c.req.aux.toNat / 65536, head := 0, tail := 0
            bound := some k, staging := .empty, tags := [] }
        else s.ring r)
      ∧ s.handed u [
        if (s.ring r).state ≠ .absent then completionOf 0 c.req.tag 0 c.ringHead .inUse 0 0
        else if (s.comp k).active = false then completionOf 0 c.req.tag 0 c.ringHead .invalidField 0 12
        else completionOf 0 c.req.tag 0 c.ringHead .success 0 0]

/-- DELETE_REQUEST_RING (R92, R98, R101, R102, R106, R107, R150, R163): NOT_FOUND and BUSY at once; else the
record staged valid is dropped, its reservation returned and the wait orders left, the ring's waiting requests and
claims end RING_DELETED, its lock entries and its hold go, the freed places take records that waited, and the ring
is ABSENT at once where nothing of it is left, else DRAINING with the request deferred. Everything of other rings
stays. Every ring of a wait order stages a record for that slot (the wait orders are sound). -/
def Obligations.DeleteRequestRingDrains : Prop :=
  ∀ (s : State) (c : ControlExec) (r : RingId),
    s.control = some c → c.req.kind = .deleteRequestRing → s.condition ≠ .halted →
    c.req.aux.toNat % 256 = r.val → r ≠ 0 →
    let x := s.ring r
    ((x.state = .absent ∨ x.state = .draining) →
      ∃ u t, exec .deleteRequestRing s = .next t ∧ u.freed t
        ∧ u = { s with compRings := u.compRings }
        ∧ s.handed u [completionOf 0 c.req.tag 0 c.ringHead
            (if x.state = .absent then .notFound else .busy) 0 0])
    ∧ (x.state = .active ∨ x.state = .faulted → s.deferredDelete r = none → s.lane.Sound →
      s.WaitOrdersSound →
      let waitingOf := fun n : SlotId => ((s.engine n).pendingList.filter fun e => e.ring = r).map
        fun e => completionOf r e.tag n.val e.ringHead .ringDeleted (s.slot n).generation 0
      let waiting := allSlots.flatMap waitingOf
      let claims := (s.lane.waiters.filter fun w => w.ring = r).map
        fun w => completionOf r w.tag w.slot.val w.ringHead .ringDeleted (s.slot w.slot).generation 0
      let ended := waiting.length + claims.length
      let idle := x.tags = [] ∧ x.staging ≠ .fetching ∧ x.staging ≠ .refused
      let held := match x.staging with
        | .holding _ => true
        | _ => false
      let others := s.lane.waiters.filter fun w => w.ring ≠ r
      let order := fun n : SlotId => if held then (s.waitOrder n).filter fun q => q ≠ r else s.waitOrder n
      ∃ (u t : State) (rs : List Completion), exec .deleteRequestRing s = .next t ∧ u.freed t
        ∧ rs.Perm (waiting ++ claims) ∧ (∀ n, (waitingOf n).Sublist rs)
        ∧ (∀ d, (u.comp d).results = (s.comp d).results ++ s.goingTo d rs
          ++ if idle then s.goingTo d [completionOf 0 c.req.tag 0 c.ringHead .success 0 ended] else [])
        ∧ (∀ d, u.comp d = { s.comp d with
          queue := (u.comp d).queue, writing := (u.comp d).writing
          reserved := if held = true ∧ x.bound = some d then (s.comp d).reserved - 1
            else (s.comp d).reserved })
        ∧ u.ring r = (if idle then
            { state := .absent, base := 0, size := 0, head := 0, tail := 0, bound := none
              staging := .empty, tags := [] }
          else { x with state := .draining, staging := if held then .empty else x.staging })
        ∧ u.deferred = (if idle then s.deferred.filter fun d => match d with
            | .deleteRing q _ _ _ => q ≠ r
            | _ => true
          else s.deferred ++ [.deleteRing r c.req.tag c.ringHead ended])
        ∧ u.locks = (s.locks.filter fun l => l.owner ≠ r)
        ∧ u.lane = (if s.lane.holderRing = some r then { s.lane with
            state := if others = [] then .free else .settling, holder := none, holderRing := none
            waiters := others, len := false
            settleTimer := if others = [] then none else some s.lane.settleInterval }
          else { s.lane with waiters := others })
        ∧ (∀ n, u.slot n = { s.slot n with
            laneRole := if (s.lane.holderRing = some r ∧ s.lane.holder = some n)
                ∨ (∃ w ∈ s.lane.waiters, w.ring = r ∧ w.slot = n) then .none
              else (s.slot n).laneRole })
        ∧ (∀ n, ∃ more : List Entry,
          u.engine n = { s.engine n with
            pendingList := ((s.engine n).pendingList.filter fun e => e.ring ≠ r) ++ more }
          ∧ (∀ e ∈ more, e.ring ≠ r ∧ e.ring ∈ order n ∧ ∃ q,
            (s.ring e.ring).staging = .holding q ∧ e.tag = q.tag ∧ e.kind = q.kind)
          ∧ ∃ taken, order n = taken ++ u.waitOrder n)
        ∧ (∀ q, q ≠ r → u.ring q = s.ring q ∨ ∃ n req, q ∈ order n
          ∧ (s.ring q).staging = .holding req ∧ u.ring q = (s.ring q).taken req.tag)
        ∧ u = { s with
          slots := u.slots, engines := u.engines, rings := u.rings, waitOrders := u.waitOrders
          compRings := u.compRings, deferred := u.deferred, locks := u.locks, lane := u.lane
          freeCount := u.freeCount })

/-- CREATE_COMPLETION_RING, DELETE_COMPLETION_RING and SET_NOTICE_RING by their tables (R81, R102, R104, R108,
R109, R110). Removing the notice ring makes the write in progress moot and sets its report again as a dirty flag
(R170); installing one has the lowest-numbered dirty slot, else ring, written as a merged record and its flag
cleared (R168, R169). The model's own choice in it: log entries 23 and 42 (a notice ring removed while its write is in
progress) and 36 (base and size 0 of a ring that is ABSENT). -/
def Obligations.CompletionAndNoticeRingsByTable : Prop :=
  ∀ (s : State) (c : ControlExec) (k : CompRingId),
    s.control = some c → s.condition ≠ .halted →
    let result := fun status => completionOf 0 c.req.tag 0 c.ringHead status 0 0
    let x := s.comp k
    let used := (∃ r, (s.ring r).state ≠ .absent ∧ (s.ring r).bound = some k) ∨ 0 < x.reserved
    (c.req.kind = .createCompletionRing → c.req.aux.toNat % 256 = k.val → k ≠ 0 →
      ∀ v : VectorId, c.req.aux.toNat / 256 % 256 = v.val →
      ∃ u t, exec .createCompletionRing s = .next t ∧ u.freed t
        ∧ (if x.active = true then u = { s with compRings := u.compRings } ∧ s.handed u [result .inUse]
          else ∃ y, u = { s with compRings := u.compRings }
            ∧ y = s.setComp k { x with
              active := true, base := c.req.buffer, size := c.req.aux.toNat / 65536, produce := 0
              consumed := 0, phase := true, unconsumed := 0, reserved := 0, vector := some v, queue := [] }
            ∧ y.handed u [result .success]
            ∧ ((s.ring 0).bound ≠ some k → u.comp k = y.comp k)))
    ∧ (c.req.kind = .deleteCompletionRing → c.req.aux.toNat % 256 = k.val → k ≠ 0 →
      (s.ring 0).state ≠ .absent →
      ∃ u t, exec .deleteCompletionRing s = .next t ∧ u.freed t ∧ u = { s with compRings := u.compRings }
        ∧ (if x.active = false then s.handed u [result .notFound]
          else if used then s.handed u [result .inUse]
          else (u.comp k).active = false ∧ (u.comp k).base = 0 ∧ (u.comp k).size = 0
            ∧ (u.comp k).produce = 0 ∧ (u.comp k).consumed = 0 ∧ (u.comp k).unconsumed = 0
            ∧ (u.comp k).reserved = 0 ∧ (u.comp k).phase = true
            ∧ ∀ d, d ≠ k → (u.comp d).results = (s.comp d).results ++ s.goingTo d [result .success]))
    ∧ (c.req.kind = .setNoticeRing →
      let size := c.req.aux.toNat / 65536
      (size = 0 ∨ s.notices.active = true →
        ∃ u t, exec .setNoticeRing s = .next t ∧ u.freed t
          ∧ u = { s with
            compRings := u.compRings, notices := u.notices, slotDirty := u.slotDirty
            ringDirty := u.ringDirty }
          ∧ s.handed u [result (if size = 0 then .success else .inUse)]
          ∧ (size = 0 → s.notices.active = true → u.notices.active = false ∧ u.notices.size = 0
            ∧ u.notices.base = 0 ∧ u.notices.produce = 0 ∧ u.notices.consumed = 0
            ∧ u.notices.unconsumed = 0 ∧ u.notices.phase = true
            ∧ (match s.notices.writing with
              | none => u.notices.writing = none ∧ u.slotDirty = s.slotDirty ∧ u.ringDirty = s.ringDirty
              | some (p, w) => u.notices.writing = some (p, { w with moot := true })
                ∧ (w.moot = true → u.slotDirty = s.slotDirty ∧ u.ringDirty = s.ringDirty)
                ∧ (w.moot = false → match p with
                  | .slot m stateKind changedKind mask => u.ringDirty = s.ringDirty
                    ∧ ∀ k, u.dirtySlot k = if k = m then
                        { set := true, stateKind := (s.dirtySlot m).stateKind || stateKind
                          changedKind := (s.dirtySlot m).changedKind || changedKind
                          mask := (s.dirtySlot m).mask ||| mask } else s.dirtySlot k
                  | .ring r cause head => u.slotDirty = s.slotDirty
                    ∧ ∀ q, (u.dirtyRing q).fault
                        = if q = r then some (cause, head) else (s.dirtyRing q).fault)))
          ∧ (size ≠ 0 ∨ s.notices.active = false →
            u.notices = s.notices ∧ u.slotDirty = s.slotDirty ∧ u.ringDirty = s.ringDirty))
      ∧ (size ≠ 0 → s.notices.active = false →
        ∃ u t, exec .setNoticeRing s = .next t
          ∧ u.freed { t with
            notices := u.notices, slotDirty := u.slotDirty, ringDirty := u.ringDirty }
          ∧ u = { s with compRings := u.compRings }
          ∧ s.handed u [result .success]
          ∧ t.notices = { s.notices with
            active := true, base := c.req.buffer, size := size, produce := 0, consumed := 0
            phase := true, unconsumed := 0, writing := t.notices.writing }
          ∧ (let room := s.notices.writing = none ∧ 1 < size
            (¬ room ∨ ((∀ n, (s.dirtySlot n).set = false) ∧ ∀ r, (s.dirtyRing r).fault = none) →
              t.notices.writing = s.notices.writing ∧ t.slotDirty = s.slotDirty
                ∧ t.ringDirty = s.ringDirty)
            ∧ (∀ n, room → (s.dirtySlot n).set = true → (∀ m, m < n → (s.dirtySlot m).set = false) →
              let d := s.dirtySlot n
              t.notices.writing = some (.slot n d.stateKind d.changedKind d.mask,
                { address := c.req.buffer, moot := false
                  bytes := noticeBytes (if d.stateKind then 1 else 2) n.val (s.slot n).state.code
                    (s.slot n).reason.code (s.slot n).generation (s.slot n).desc.state 3 d.mask.toNat })
              ∧ t.ringDirty = s.ringDirty ∧ ∀ m, t.dirtySlot m = if m = n then
                  { set := false, stateKind := false, changedKind := false, mask := 0 } else s.dirtySlot m)
            ∧ ∀ r cause head, room → (∀ n, (s.dirtySlot n).set = false) →
              (s.dirtyRing r).fault = some (cause, head) → (∀ q, q < r → (s.dirtyRing q).fault = none) →
              t.notices.writing = some (.ring r cause head,
                { address := c.req.buffer, moot := false
                  bytes := noticeBytes 3 r.val (s.ring r).state.code 0 0 .none 3
                    (cause.code + 65536 * head) })
              ∧ t.slotDirty = s.slotDirty ∧ ∀ q, (t.dirtyRing q).fault
                  = if q = r then none else (s.dirtyRing q).fault)))

/-- CONFIGURE_SLOT replaces the seven settings in every slot state (R12, R111); READ_SLOT_RECORD has the 128-byte
snapshot written and completes at that write's end with the generation and state it shows (R16, R104, R113). The
snapshot is laid out as R187 gives, with the codes of R191 and the settings in the layout of R184; a field that is
absent reads 0. -/
def Obligations.SlotConfiguredAndRead : Prop :=
  (∀ (s : State) (c : ControlExec), s.control = some c → s.condition ≠ .halted →
    let n := c.req.slot
    let w := c.req.aux.toNat
    (c.req.kind = .configureSlot →
      ∃ u t, exec .configureSlot s = .next t ∧ u.freed t
        ∧ u = { s with slots := u.slots, compRings := u.compRings }
        ∧ (∀ m, u.slot m = if m = n then { s.slot n with
            config :=
              { autoPower := w.testBit 0, speed := if w.testBit 1 then .khz400 else .khz100
                retainPower := w.testBit 2
                supply := ⟨w.testBit 4, w.testBit 5, w.testBit 6, w.testBit 7⟩
                pollLimit := w / 2 ^ 8 % 2 ^ 8, settleSteps := w / 2 ^ 16 % 2 ^ 5
                pgLimit := w / 2 ^ 21 % 2 ^ 11 } } else s.slot m)
        ∧ s.handed u [completionOf 0 c.req.tag n.val c.ringHead .success (s.slot n).generation 0])
    ∧ (c.req.kind = .readSlotRecord → s.snapshotWrite = none →
      let p : SnapshotWrite :=
        { address := c.req.buffer, bytes := (s.slot n).snapshot n, generation := (s.slot n).generation
          slotState := (s.slot n).state, moot := false }
      exec .readSlotRecord s = .next { s with snapshotWrite := some p })
    ∧ ∀ (ok : Bool) (p : SnapshotWrite), s.snapshotWrite = some p → p.moot = false →
      ∃ u t, exec (.snapshotWriteDone ok) s = .next t ∧ u.freed t
        ∧ u = { s with snapshotWrite := none, compRings := u.compRings }
        ∧ s.handed u [completionOf 0 c.req.tag n.val c.ringHead
            (if ok then .success else .hostWriteError) p.generation p.slotState.code])
  ∧ (∀ (x : Slot) (n : SlotId),
    let l := x.snapshot n
    let flag := fun c : Bool => if c then 1 else 0
    let read := fun r : Reading => match r with
      | .open => 0
      | .ground => 1
      | .linked => 2
    let capacity := x.desc.capacity
    let vendor := (x.desc.identity.map fun d => d.vendor.toNat).getD 0
    let module := (x.desc.identity.map fun d => d.kind.toNat).getD 0
    let protectEnd := x.desc.protectEnd.getD 0
    let budget := (x.desc.powerBudget.map fun p => p.toNat).getD 0
    l.length = 128
    ∧ (∀ p ∈ [(0, n.val), (1, x.state.code), (2, x.reason.code),
        (3, flag x.sense.isSome + 2 * flag x.desc.identity.isSome + 4 * flag x.desc.powerBudget.isSome
          + 8 * flag x.desc.laneWidth.isSome + 16 * flag x.desc.label.isSome),
        (4, x.generation.toNat), (5, x.generation.toNat / 2 ^ 8),
        (6, (x.sense.map fun c => read c.a).getD 0), (7, (x.sense.map fun c => read c.b).getD 0),
        (8, match x.supplyClass with
          | .none => 0
          | .s33 => 1
          | .s50 => 2
          | .s120 => 3
          | .s33s120 => 4),
        (9, x.desc.state.code), (10, x.desc.state.reasonCode), (11, x.desc.pageSize), (12, capacity),
        (13, capacity / 2 ^ 8), (14, vendor), (15, vendor / 2 ^ 8), (16, module), (17, module / 2 ^ 8),
        (26, protectEnd), (27, protectEnd / 2 ^ 8), (28, flag x.desc.closed),
        (29, x.desc.laneWidth.getD 0), (30, budget), (31, budget / 2 ^ 8),
        (32, (x.desc.label.map List.length).getD 0), (33, x.desc.unknownCount.getD 0), (34, flag x.prot),
        (35, x.stuck),
        (36, match x.laneRole with
          | .none => 0
          | .holder => 1
          | .waiter => 2),
        (37, 0), (38, x.desc.span), (39, x.desc.span / 2 ^ 8)],
      l.getD p.1 0 = BitVec.ofNat 8 p.2)
    ∧ (∀ i, i < 8 → l.getD (18 + i) 0
        = (x.desc.identity.map fun d => d.serial.toList.getD i 0).getD 0)
    ∧ (∀ i, i < 32 → l.getD (44 + i) 0 = (x.desc.label.getD []).getD i 0)
    ∧ (∀ i, 76 ≤ i → l.getD i 0 = 0)
    ∧ (x.config.inRange = true →
      l.getD 40 0 = BitVec.ofNat 8 (flag x.config.autoPower + 2 * flag (x.config.speed == .khz400)
        + 4 * flag x.config.retainPower + 16 * flag x.config.supply.s33 + 32 * flag x.config.supply.s50
        + 64 * flag x.config.supply.s120 + 128 * flag x.config.supply.s33s120)
      ∧ l.getD 41 0 = BitVec.ofNat 8 x.config.pollLimit
      ∧ l.getD 42 0 = BitVec.ofNat 8 (x.config.settleSteps + 32 * (x.config.pgLimit % 8))
      ∧ l.getD 43 0 = BitVec.ofNat 8 (x.config.pgLimit / 8)))
  ∧ (∀ d : DescState, d.code = (match d with
      | .none => 0
      | .valid => 1
      | .invalid _ => 2
      | .absent => 3)
    ∧ (d.reasonCode = match d with
      | .invalid .magic => 1
      | .invalid .version => 2
      | .invalid .headerCheck => 3
      | .invalid .geometry => 4
      | .invalid .extOverrun => 5
      | .invalid .extNoEnd => 6
      | .invalid .extCheck => 7
      | .invalid .duplicateEntry => 8
      | .invalid .entryLength => 9
      | .none | .valid | .absent => 0))
  ∧ [SlotState.empty, .settling, .probing, .powering, .reading, .ready, .held, .fault].map SlotState.code
    = List.range 8
  ∧ [Reason.none, .noSense, .badSense, .classBlocked, .manualOff, .pgTimeout, .powerLost, .busStuck].map
    Reason.code = List.range 8

/-- SLOT_POWER with no OFF standing for the slot (R35, R36, R104, R112): what each direction does in each slot
state but an OFF in READY, its notice, and its completion with the slot's state as it then is; with an OFF
standing, BUSY (log entry 21). The model's own choice in it: log entry 32 (an OFF out of PROBING, POWERING or
READING hands its SUCCESS over last). -/
def Obligations.SlotPowerByState : Prop :=
  ∀ (s : State) (c : ControlExec), s.control = some c → s.condition ≠ .halted → c.req.kind = .slotPower →
    let n := c.req.slot
    let x := s.slot n
    let st := x.state
    let result := fun (status : Status) (code : Nat) =>
      completionOf 0 c.req.tag n.val c.ringHead status x.generation code
    let quiet := { x with
      reason := Reason.none, settleTimer := none, probe := none, pgTimer := none, wakeTimer := none
      prb := true }
    (c.req.aux.toNat % 256 = 1 → s.deferredOff n = none →
      ∃ u t, exec .slotPowerOn s = .next t ∧ u.freed t
        ∧ u = { s with
          slots := u.slots, compRings := u.compRings, notices := u.notices, slotDirty := u.slotDirty
          ringDirty := u.ringDirty }
        ∧ (∀ m, u.slot m = if m ≠ n then s.slot m
          else if st = .held ∨ st = .fault then { quiet with
            state := .probing, stuck := 0, origin := .host, pwren := false, prb := false
            probe := some { repeatAttempt := false, secondPass := false, highPhase := false, lowA := false
                            lowB := false, firstPair := none } }
          else if st = .probing then { x with origin := .host } else x)
        ∧ (st = .held ∨ st = .fault → u.stateNoticed n)
        ∧ (st ≠ .held → st ≠ .fault → u.notices = s.notices ∧ u.slotDirty = s.slotDirty)
        ∧ s.handed u [if st = .empty ∨ st = .settling then result .notReady st.code
          else if st = .held ∨ st = .fault then result .success 2 else result .success st.code])
    ∧ (c.req.aux.toNat % 256 = 0 → s.deferredOff n = none → st ≠ .ready →
      ∃ u t, exec .slotPowerOff s = .next t ∧ u.freed t
        ∧ u = { s with
          slots := u.slots, engines := u.engines, rings := u.rings, waitOrders := u.waitOrders
          compRings := u.compRings, notices := u.notices, slotDirty := u.slotDirty
          ringDirty := u.ringDirty }
        ∧ (∀ m, m ≠ n → u.slot m = s.slot m ∧ u.engine m = s.engine m)
        ∧ (st = .empty ∨ st = .settling ∨ st = .held →
          u.slot n = x ∧ u.engine n = s.engine n ∧ u.rings = s.rings ∧ u.notices = s.notices
          ∧ s.handed u [result (if st = .held then .success else .notReady) st.code])
        ∧ (st = .fault → u.slot n = { x with state := .held, reason := .manualOff }
          ∧ u.engine n = s.engine n ∧ u.rings = s.rings ∧ u.stateNoticed n
          ∧ s.handed u [result .success 6])
        ∧ (st = .probing ∨ st = .powering ∨ st = .reading →
          u.slot n = { quiet with
            state := .held, reason := .manualOff, pwren := false, resetDue := none }
          ∧ u.stateNoticed n ∧ (u.engine n).pendingList = [] ∧ (u.engine n).heldOver = []
          ∧ (st = .reading → (u.engine n).phase = .idle ∧ (u.engine n).descRead = none
            ∧ (u.engine n).exec = none)
          ∧ u.waitOrder n = []
          ∧ ∀ d, ∃ late, (∀ q ∈ late, q.status = .notReady) ∧ (u.comp d).results = (s.comp d).results
            ++ s.goingTo d (((s.engine n).heldOver ++ (s.engine n).pendingList).map fun e =>
              completionOf e.ring e.tag n.val e.ringHead .poweredOff x.generation 0)
            ++ late ++ s.goingTo d [result .success 6]))
    ∧ ((s.deferredOff n).isSome = true →
      ∃ u t, u.freed t ∧ u = { s with compRings := u.compRings } ∧ s.handed u [result .busy st.code]
        ∧ (c.req.aux.toNat % 256 = 1 → exec .slotPowerOn s = .next t)
        ∧ (c.req.aux.toNat % 256 = 0 → exec .slotPowerOff s = .next t))

/-- SLOT_POWER OFF in READY (R34, R37, R92, R101, R102, R123): with a request in execution the OFF is deferred and
the waiting entries are held over; with none the slot goes to HELD(MANUAL_OFF) at once, its hold or wait ended, the
entries POWERED_OFF and the OFF SUCCESS. Under a standing OFF the end of the request, by whatever command, does what
it does without the OFF, and the exit comes with it: the slot's claim ends before the request's own completion, the
supply is switched off, the slot is HELD(MANUAL_OFF), and after the request's completion come the entries held over
and those that joined later POWERED_OFF, then the OFF SUCCESS, and last the records of the wait order NOT_READY. -/
def Obligations.SlotPowerOffInReady : Prop :=
  (∀ (s : State) (c : ControlExec), s.lane.Sound → s.control = some c → s.condition ≠ .halted →
    c.req.kind = .slotPower → c.req.aux.toNat % 256 = 0 → s.deferredOff c.req.slot = none →
    (s.slot c.req.slot).state = .ready →
    let n := c.req.slot
    let x := s.slot n
    let e := s.engine n
    ∃ u t, exec .slotPowerOff s = .next t ∧ u.freed t
      ∧ u = { s with
        slots := u.slots, engines := u.engines, rings := u.rings, waitOrders := u.waitOrders
        compRings := u.compRings, notices := u.notices, slotDirty := u.slotDirty
        ringDirty := u.ringDirty, deferred := u.deferred, lane := u.lane }
      ∧ (∀ m, m ≠ n → u.slot m = s.slot m)
      ∧ (e.exec.isSome = true →
        u.deferred = s.deferred ++ [.powerOff n c.req.tag c.ringHead] ∧ u.slots = s.slots
        ∧ (u.engine n).heldOver = e.heldOver ++ e.pendingList ∧ (u.engine n).exec = e.exec
        ∧ (s.waitOrder n = [] → (u.engine n).pendingList = [])
        ∧ u.lane = s.lane ∧ u.notices = s.notices ∧ s.handed u [])
      ∧ (e.exec = none → s.waitOrder n = [] →
        u.deferred = (s.deferred.filter fun d => match d with
          | .powerOff m _ _ => m ≠ n
          | _ => true)
        ∧ u.slot n = { x with
          state := .held, reason := .manualOff, pwren := false, settleTimer := none, probe := none
          pgTimer := none, wakeTimer := none, prb := true, resetDue := none
          laneRole := if s.lane.holder = some n ∨ (∃ w ∈ s.lane.waiters, w.slot = n) then .none
            else x.laneRole }
        ∧ u.stateNoticed n ∧ u.lane.holder ≠ some n ∧ (∀ w ∈ u.lane.waiters, w.slot ≠ n)
        ∧ (∀ m, u.engine m = if m = n then { e with pendingList := [], heldOver := [] } else s.engine m)
        ∧ s.handed u
          ((s.lane.waiters.filter fun w => w.slot = n).map (fun w =>
            completionOf w.ring w.tag n.val w.ringHead .poweredOff x.generation 0)
          ++ (e.heldOver ++ e.pendingList).map (fun e =>
            completionOf e.ring e.tag n.val e.ringHead .poweredOff x.generation 0)
          ++ [completionOf 0 c.req.tag n.val c.ringHead .success x.generation 6])))
  ∧ ∀ (s t0 : State) (n : SlotId) (x : Execution) (tag : Half) (head : Nat) (c : Instr)
    (first : List Completion) (own : Completion),
    (∃ ok, c = .hostWriteDone n ok) ∨ (∃ data, c = .hostReadDone n data) ∨ (∃ acked, c = .poll n acked)
      ∨ (∃ o, c = .readTransaction n o) ∨ (∃ o, c = .writeTransaction n o)
      ∨ (∃ close, c = .abortMark n close) ∨ c = .retryWaitExpiry n
      ∨ (∃ scl sda, c = .recoveryEnd n scl sda) →
    s.lane.Sound → s.condition ≠ .halted → (s.engine n).exec = some x → (s.engine n).closing = false →
    s.deferredOff n = some (tag, head) →
    let others := s.deferred.filter fun d => match d with
      | .powerOff m _ _ => m ≠ n
      | _ => true
    exec c { s with deferred := others } = .next t0 →
    (t0.engine n).exec = none → (t0.slot n).state = .ready →
    s.handed t0 (first ++ [own]) → own.ring = x.entry.ring →
    let y := t0.slot n
    ∃ t, exec c s = .next t ∧ t.stateNoticed n
      ∧ t = { t0 with
        slots := t.slots, engines := t.engines, rings := t.rings, waitOrders := t.waitOrders
        compRings := t.compRings, notices := t.notices, slotDirty := t.slotDirty
        ringDirty := t.ringDirty, deferred := others, lane := t.lane }
      ∧ (∀ m, t.slot m = if m = n then { y with
          state := .held, reason := .manualOff, pwren := false, settleTimer := none, probe := none
          pgTimer := none, wakeTimer := none, prb := true, resetDue := none
          laneRole := if t0.lane.holder = some n ∨ (∃ w ∈ t0.lane.waiters, w.slot = n) then .none
            else y.laneRole } else t0.slot m)
      ∧ (∀ m, t.engine m = if m = n then { t0.engine n with pendingList := [], heldOver := [] }
          else t0.engine m)
      ∧ t.lane = (if t0.lane.holder = some n then { t0.lane with
          state := if t0.lane.waiters = [] then .free else .settling, holder := none, holderRing := none
          settleTimer := if t0.lane.waiters = [] then none else some t0.lane.settleInterval, len := false }
        else { t0.lane with waiters := t0.lane.waiters.filter fun w => w.slot ≠ n })
      ∧ t.waitOrder n = []
      ∧ s.handedFirst t (first
        ++ (t0.lane.waiters.filter fun w => w.slot = n).map (fun w =>
          completionOf w.ring w.tag n.val w.ringHead .poweredOff y.generation 0)
        ++ own :: (((s.engine n).heldOver ++ (s.engine n).pendingList).map (fun q =>
          completionOf q.ring q.tag n.val q.ringHead .poweredOff y.generation 0)
        ++ [completionOf 0 tag n.val head .success y.generation 6]))

/-- ABORT (R101, R102, R114, R115, R116, R117): NOT_FOUND, BUSY, or deferred, the target then ended ABORTED where
it waits in a pending list or on the lane, or marked where it is in execution. -/
def Obligations.AbortDecidesTarget : Prop :=
  ∀ (s : State) (c : ControlExec) (r : RingId) (tag : Half),
    s.control = some c → c.req.kind = .abort → s.condition ≠ .halted →
    c.req.aux.toNat % 256 = r.val → c.req.aux.toNat / 65536 = tag.toNat →
    let deferred := s.deferred ++ [.abort r tag c.req.tag c.ringHead]
    let known := (s.ring r).state ≠ .absent ∧ tag ∈ (s.ring r).tags
    (¬ known ∨ (s.deferredAbort r tag).isSome = true →
      ∃ u t, exec .abort s = .next t ∧ u.freed t ∧ u = { s with compRings := u.compRings }
        ∧ s.handed u [completionOf 0 c.req.tag 0 c.ringHead (if known then .busy else .notFound) 0 0])
    ∧ (∀ n e l l', known → s.deferredAbort r tag = none → (s.engine n).pendingList = l ++ e :: l' →
      e.ring = r → e.tag = tag →
      (∀ m, ∀ f ∈ (s.engine m).pendingList, f.ring = r → f.tag = tag → m = n ∧ f = e) → e ∉ l ++ l' →
      ∃ u t, exec .abort s = .next t ∧ u.freed t
        ∧ u = { s with
          engines := u.engines, rings := u.rings, waitOrders := u.waitOrders, compRings := u.compRings
          deferred := deferred }
        ∧ (∃ more, u.engine n = { s.engine n with pendingList := l ++ l' ++ more })
        ∧ (s.waitOrder n = [] → ∀ m, m ≠ n → u.engine m = s.engine m)
        ∧ s.handed u [completionOf r tag n.val e.ringHead .aborted (s.slot n).generation 0])
    ∧ (∀ w, known → s.deferredAbort r tag = none → s.lane.Sound →
      (∀ m, ∀ f ∈ (s.engine m).pendingList, f.ring = r → f.tag ≠ tag) →
      w ∈ s.lane.waiters → w.ring = r → w.tag = tag →
      (∀ v ∈ s.lane.waiters, v.ring = r → v.tag = tag → v = w) →
      ∃ u t, exec .abort s = .next t ∧ u.freed t
        ∧ u = { s with
          slots := u.slots, compRings := u.compRings, deferred := deferred
          lane := { s.lane with waiters := s.lane.waiters.filter fun v => v.slot ≠ w.slot } }
        ∧ (∀ m, u.slot m = if m = w.slot then { s.slot m with laneRole := .none } else s.slot m)
        ∧ s.handed u [completionOf r tag w.slot.val w.ringHead .aborted (s.slot w.slot).generation 0])
    ∧ (known → s.deferredAbort r tag = none →
      (∀ m, ∀ f ∈ (s.engine m).pendingList, f.ring = r → f.tag ≠ tag) →
      (∀ v ∈ s.lane.waiters, v.ring = r → v.tag ≠ tag) →
      (∀ n x, (s.engine n).exec = some x → x.entry.ring = r → x.entry.tag = tag →
        (∀ m y, (s.engine m).exec = some y → y.entry.ring = r → y.entry.tag = tag → m = n) →
        ∃ t, exec .abort s = .next t
          ∧ ({ s with deferred := deferred }.setEngine n { s.engine n with
            exec := some { x with abortMark := true } }).freed t)
      ∧ ((∀ m y, (s.engine m).exec = some y → y.entry.ring = r → y.entry.tag ≠ tag) →
        ∃ t, exec .abort s = .next t ∧ { s with deferred := deferred }.freed t))

/-- LANE_CONTROL and the strap (R102, R119, R154, R164): enabling writes the settle interval and takes DISABLED to
FREE where the strap reports a switch; a disable, and a strap that reports none, ends the hold, completes every
waiter LANE_UNAVAILABLE in order and leaves LSEL. -/
def Obligations.LaneSwitchedOnAndOff : Prop :=
  ∀ s : State, s.lane.Sound →
    let off := { s.lane with
      state := .disabled, holder := none, holderRing := none, waiters := [], settleTimer := none
      len := false }
    let ended := s.lane.waiters.map fun w =>
      completionOf w.ring w.tag w.slot.val w.ringHead .laneUnavailable (s.slot w.slot).generation 0
    let roles := fun u : State => u = { s with
        slots := u.slots, lane := u.lane, compRings := u.compRings, laneFitted := u.laneFitted }
      ∧ ∀ m, u.slot m = if s.lane.state ≠ .disabled
          ∧ (s.lane.holder = some m ∨ ∃ w ∈ s.lane.waiters, w.slot = m) then
        { s.slot m with laneRole := .none } else s.slot m
    (∀ c, s.control = some c → s.condition ≠ .halted → c.req.kind = .laneControl →
      let result := fun (status : Status) (code : Nat) =>
        completionOf 0 c.req.tag 0 c.ringHead status 0 code
      (c.req.aux.toNat % 256 = 1 →
        ∃ u t, exec .laneControlEnable s = .next t ∧ u.freed t
          ∧ (if s.laneFitted = false then u = { s with compRings := u.compRings }
              ∧ s.handed u [result .laneUnavailable s.lane.state.code]
            else u = { s with
                compRings := u.compRings
                lane := { s.lane with
                  settleInterval := c.req.aux.toNat / 256 % 256
                  state := if s.lane.state = .disabled then .free else s.lane.state } }
              ∧ s.handed u [result .success (if s.lane.state = .disabled then 1 else s.lane.state.code)]))
      ∧ (c.req.aux.toNat % 256 = 0 →
        ∃ u t, exec .laneControlDisable s = .next t ∧ u.freed t ∧ roles u ∧ u.laneFitted = s.laneFitted
          ∧ u.lane = (if s.lane.state = .disabled then s.lane else off)
          ∧ s.handed u ((if s.lane.state = .disabled then [] else ended) ++ [result .success 0])))
    ∧ exec (.laneStrapChange true) s = .next { s with laneFitted := true }
    ∧ ∃ u, exec (.laneStrapChange false) s = .next u ∧ u.laneFitted = false ∧ roles u
      ∧ u.lane = (if s.lane.state = .disabled then s.lane else off)
      ∧ s.handed u (if s.lane.state = .disabled then [] else ended)

/-! ### Requests -/

/-- A request starts (R78, R124, R125, R127, R128, R130, R132, R135): its entry leaves the list; READ opens its
bus read and REFRESH the header's, WRITE and COMPARE have the host buffer read; a READ or REFRESH of a
generation that has passed ends STALE, a READ past the capacity OUT_OF_RANGE. From a full list the place that the
start frees, LOCK's and UNLOCK's too, takes the record at the head of the slot's wait order, which joins at the tail
and leaves its ring (R91, R92); the start itself is as with no record waiting. The model's own choice in it: log
entry 25 (the bus values between transactions). -/
def Obligations.RequestsStart : Prop :=
  (∀ (s : State) (n : SlotId) (entry : Entry) (rest : List Entry),
    let x := s.slot n
    let e := s.engine n
    let stop := entry.address + entry.length
    let started := fun stage => ({ entry := entry, seen := x.seen, stage := stage, next := entry.address
                                   bytesDone := 0, abortMark := false } : Execution)
    let stale := entry.generation ≠ 0 ∧ entry.generation ≠ x.generation
    let ended := fun (t : State) (status : Status) (detail : Nat) =>
      t = { s with engines := t.engines, compRings := t.compRings }
      ∧ (∀ m, t.engine m = if m = n then { e with
          pendingList := rest, piece := none, frame := [], scl := .released, sda := .released
          descRead := none } else s.engine m)
      ∧ s.handed t [completionOf entry.ring entry.tag n.val entry.ringHead status x.generation detail]
    e.pendingList = entry :: rest → x.state = .ready → s.deferredOff n = none → e.exec = none →
    e.phase = .idle → e.closing = false → e.hostTransfer = none → s.condition ≠ .halted →
    s.waitOrder n = [] →
    (entry.kind = .read →
      ∃ t, exec (.read n) s = .next t
        ∧ (if stale then ended t .stale entry.generation.toNat
          else if x.desc.capacity < stop then ended t .outOfRange stop
          else t = s.setEngine n { e with
            pendingList := rest, exec := some (started .busRead), phase := .addressing, scl := .clocked
            sda := .clocked, attempt := 1, block := entry.address / 256 % 8, speed := x.config.speed
            stuckCounter := 0
            frame := [BitVec.ofNat 8 (0xB0 + 2 * (entry.address / 256 % 8)),
              BitVec.ofNat 8 entry.address,
              BitVec.ofNat 8 (0xB1 + 2 * (entry.address / 256 % 8))] }))
    ∧ (entry.kind = .refresh →
      ∃ t, exec (.refresh n) s = .next t
        ∧ (if stale then ended t .stale entry.generation.toNat
          else t = s.setEngine n { e with
            pendingList := rest, exec := some (started .refreshing), descRead := some .header
            phase := .addressing, scl := .clocked, sda := .clocked, attempt := 1, block := 0
            speed := x.config.speed, stuckCounter := 0, frame := [0xB0, 0x00, 0xB1] }))
    ∧ ((entry.kind = .write → exec (.write n) s = .next (s.setEngine n { e with
          pendingList := rest, exec := some (started .hostRead)
          hostTransfer := some { toHost := false, address := entry.buffer, length := entry.length
                                 data := [], abandoned := false } }))
      ∧ (entry.kind = .compare → exec (.compare n) s = .next (s.setEngine n { e with
          pendingList := rest, exec := some (started .hostRead)
          hostTransfer := some { toHost := false, address := entry.buffer, length := entry.length
                                 data := [], abandoned := false } }))))
  ∧ ∀ (s t0 : State) (n : SlotId) (entry : Entry) (rest : List Entry) (r : RingId) (order : List RingId)
    (q : Request) (c : Instr),
    let e := s.engine n
    e.pendingList = entry :: rest → rest.length = 3 → (s.slot n).state = .ready →
    s.deferredOff n = none → e.exec = none → e.phase = .idle → e.closing = false →
    e.hostTransfer = none → s.condition ≠ .halted →
    s.waitOrder n = r :: order → (s.ring r).staging = .holding q → q.slot = n →
    (entry.kind = .read ∧ c = .read n) ∨ (entry.kind = .write ∧ c = .write n)
      ∨ (entry.kind = .compare ∧ c = .compare n) ∨ (entry.kind = .refresh ∧ c = .refresh n)
      ∨ (entry.kind = .lock ∧ c = .lock n) ∨ (entry.kind = .unlock ∧ c = .unlock n) →
    exec c (s.setWaitOrder n []) = .next t0 →
    exec c s = .next (((t0.setRing r ((s.ring r).taken q.tag)).setWaitOrder n order).setEngine n
      { t0.engine n with
        pendingList := rest ++ [
          { kind := q.kind, ring := r, tag := q.tag, generation := q.generation, address := q.address
            length := q.length, buffer := q.buffer, ringHead := ((s.ring r).taken q.tag).head }] })

/-- A host transfer ends (R70, R72, R125, R127, R128, R131, R132, R137, R138, R149): the host data of a WRITE fill
the buffer and, by the checks in order, refuse it STALE, OUT_OF_RANGE, LOCKED or PROTECTED or open its first
piece; a failed transfer ends the request, and the abort mark ends it ABORTED; a READ whose data are written
completes SUCCESS. An abandoned transfer is dropped whatever its outcome: nothing is handed over or placed in the
buffer, and a descriptor read that waited for its end makes its first transfer (R138). The model's own choice in
it: log entries 6 (bytes of the announced length) and 37 (the START of the first piece). -/
def Obligations.HostTransfersEnd : Prop :=
  ∀ (s : State) (n : SlotId) (x : Execution) (h : HostTransfer),
    let e := s.engine n
    let free := { e with
      phase := .idle, scl := .released, sda := .released, frame := [], piece := none, exec := none
      descRead := none, hostTransfer := none }
    let ended := fun (t : State) (status : Status) (detail done : Nat) =>
      t = { s with engines := t.engines, compRings := t.compRings }
      ∧ (∀ m, t.engine m = if m = n then { free with buffer := (t.engine n).buffer } else s.engine m)
      ∧ s.handed t [{ completionOf x.entry.ring x.entry.tag n.val x.entry.ringHead status
          x.seen.generation detail with bytesDone := done }]
    let read := fun address : Nat => s.setEngine n { e with
      hostTransfer := none, phase := .addressing, scl := .clocked, sda := .clocked, attempt := 1
      block := 0, speed := (s.slot n).config.speed, stuckCounter := 0
      frame := [0xB0, BitVec.ofNat 8 address, 0xB1] }
    let dropped := match e.descRead with
      | none => s.setEngine n { e with hostTransfer := none }
      | some .header => read 0
      | some (.extension _) => read 32
    e.hostTransfer = some h →
    (h.abandoned = true →
      (h.toHost = true → ∀ ok, exec (.hostWriteDone n ok) s = .next dropped)
      ∧ (h.toHost = false → ∀ data, exec (.hostReadDone n data) s = .next dropped))
    ∧ (h.abandoned = false → e.exec = some x → s.deferredOff n = none →
     (h.toHost = true → ∀ ok, ∃ t, exec (.hostWriteDone n ok) s = .next t
      ∧ ended t (if ok then .success else .hostWriteError) 0 (if ok then x.entry.length else 0)
      ∧ (t.engine n).buffer = e.buffer)
    ∧ (h.toHost = false → ∃ t, exec (.hostReadDone n none) s = .next t
      ∧ ended t (if x.abortMark then .aborted else .hostReadError) 0 0)
    ∧ ∀ bytes : List Byte, h.toHost = false → bytes.length = h.length → h.length ≤ 2048 →
      Buffer.wf e.buffer = true →
      let a := x.entry.address
      let stop := a + x.entry.length
      let stale := x.entry.generation ≠ 0 ∧ x.entry.generation ≠ x.seen.generation
      let others := s.locks.filter fun l => l.slot = n ∧ l.owner ≠ x.entry.ring
        ∧ a < l.start + l.length ∧ l.start < stop
      let len := min (stop - a) (x.seen.pageSize - a % x.seen.pageSize)
      ∃ t, exec (.hostReadDone n (some bytes)) s = .next t
        ∧ (∀ i, Buffer.read (t.engine n).buffer i = if i < bytes.length then bytes.getD i 0
            else Buffer.read e.buffer i)
        ∧ (if x.abortMark = true then ended t .aborted 0 0
          else if stale then ended t .stale x.entry.generation.toNat 0
          else if x.seen.capacity < stop then ended t .outOfRange stop 0
          else if x.entry.kind ≠ .write then t = s.setEngine n (t.engine n)
            ∧ (t.engine n).phase = .addressing ∧ (t.engine n).exec = some { x with stage := .busRead }
            ∧ (t.engine n).attempt = 1 ∧ (t.engine n).hostTransfer = none
            ∧ (t.engine n).frame = [BitVec.ofNat 8 (0xB0 + 2 * (a / 256 % 8)), BitVec.ofNat 8 a,
                BitVec.ofNat 8 (0xB1 + 2 * (a / 256 % 8))]
          else (∀ l ∈ others, (∀ m ∈ others, l.start ≤ m.start) → ended t .locked l.start 0)
            ∧ (others = [] → ∀ p, x.seen.protectEnd = some p → x.seen.descState = .valid →
              x.seen.closed = true → x.seen.prot = true → a < p → ended t .protectedArea p 0)
            ∧ (others = [] → (x.seen.protectEnd = none ∨ x.seen.descState ≠ .valid
                ∨ x.seen.closed = false ∨ x.seen.prot = false ∨ ∃ p, x.seen.protectEnd = some p ∧ p ≤ a) →
              (t.engine n).phase = .addressing
              ∧ (t.engine n).exec = some { x with stage := .pieces }
              ∧ (t.engine n).piece = some { start := a, length := len }
              ∧ (t.engine n).attempt = 1 ∧ (t.engine n).hostTransfer = none
              ∧ t = s.setEngine n (t.engine n)
              ∧ (t.engine n).frame = BitVec.ofNat 8 (0xB0 + 2 * (a / 256 % 8)) :: BitVec.ofNat 8 a
                :: (List.range len).map fun i => Buffer.read (t.engine n).buffer i)))

/-- LOCK and UNLOCK of a READY slot (R93, R125, R142, R143, R144, R146): the table in order gives the status, the
detail and the one entry that comes or goes, and nothing else is changed. -/
def Obligations.LocksTakenAndReturned : Prop :=
  ∀ (s : State) (n : SlotId) (entry : Entry) (rest : List Entry),
    let x := s.slot n
    let e := s.engine n
    let stop := entry.address + entry.length
    let mine : LockEntry :=
      { slot := n, start := entry.address, length := entry.length, owner := entry.ring }
    let overlapping := s.locks.filter fun l => l.slot = n
      ∧ entry.address < l.start + l.length ∧ l.start < stop
    let others := overlapping.filter fun l => l.owner ≠ entry.ring
    let stale := entry.generation ≠ 0 ∧ entry.generation ≠ x.generation
    let ended := fun (t : State) (status : Status) (detail : Nat) (locks : List LockEntry) =>
      t = { s with engines := t.engines, compRings := t.compRings, locks := locks }
      ∧ (∀ m, t.engine m = if m = n then { e with
          pendingList := rest, piece := none, frame := [], scl := .released, sda := .released
          descRead := none } else s.engine m)
      ∧ s.handed t [completionOf entry.ring entry.tag n.val entry.ringHead status x.generation detail]
    e.pendingList = entry :: rest → x.state = .ready → s.deferredOff n = none → e.exec = none →
    e.phase = .idle → e.closing = false → e.hostTransfer = none → s.condition ≠ .halted →
    s.waitOrder n = [] →
    (entry.kind = .lock → ∃ t, exec (.lock n) s = .next t
      ∧ (if stale then ended t .stale entry.generation.toNat s.locks
        else if x.desc.capacity < stop then ended t .outOfRange stop s.locks
        else (∀ l ∈ others, (∀ m ∈ others, l.start ≤ m.start) → ended t .conflict l.start s.locks)
          ∧ (others = [] → ∀ l ∈ overlapping, (∀ m ∈ overlapping, l.start ≤ m.start) →
            ended t .overlap l.start s.locks)
          ∧ (overlapping = [] → 16 ≤ s.locks.length → ended t .tableFull 16 s.locks)
          ∧ (overlapping = [] → s.locks.length < 16 →
            ended t .success (s.locks.length + 1) (s.locks ++ [mine]))))
    ∧ (entry.kind = .unlock → ∃ t, exec (.unlock n) s = .next t
      ∧ (if stale then ended t .stale entry.generation.toNat s.locks
        else if mine ∈ s.locks then ended t .success (s.locks.length - 1) (s.locks.erase mine)
        else ended t .notHeld 0 s.locks))

/-! ### The lane -/

/-- A claim is answered by the eight tests in order (R153, R154, R155, R156, R157), a release only by its holder and
ring (R158): every valid record of these kinds is taken and answered at once, or the claim joins the list. -/
def Obligations.ClaimsAnsweredInOrder : Prop :=
  ∀ (s : State) (f : RecordRead) (l : Vector Byte 32) (q : Request), s.lane.Sound →
    s.recordRead = some f → f.moot = false → (s.ring f.ring).state = .active → s.condition ≠ .halted →
    validate f.ring (s.ring f.ring).tags l.toList = .valid q →
    let r := f.ring
    let x := s.slot q.slot
    let head := ((s.ring r).taken q.tag).head
    let u := { s with recordRead := none }.setRing r ((s.ring r).taken q.tag)
    let answered := fun (t : State) (lane : Lane) (role : Option LaneRole) (rs : List Completion) =>
      t = { u with slots := t.slots, lane := lane, compRings := t.compRings }
      ∧ (∀ m, t.slot m = if m = q.slot then { x with laneRole := role.getD x.laneRole } else s.slot m)
      ∧ s.handed t rs
    let result := fun (status : Status) (generation : Half) (detail : Nat) =>
      completionOf r q.tag q.slot.val head status generation detail
    let limit := q.aux.toNat % 65536
    (q.kind = .claimLane → ∃ t, exec (.recordReadDone (some l)) s = .next t ∧
      if q.generation ≠ 0 ∧ q.generation ≠ x.generation then
        answered t s.lane none [result .stale x.generation q.generation.toNat]
      else if x.state ≠ .ready then answered t s.lane none [result .notReady x.generation 0]
      else if x.desc.laneWidth = none ∨ s.lane.state = .disabled then
        answered t s.lane none [result .laneUnavailable x.generation 0]
      else if s.lane.holder = some q.slot then
        answered t s.lane none [result .alreadyHeld x.generation 0]
      else if ∃ w ∈ s.lane.waiters, w.slot = q.slot then
        answered t s.lane none [result .duplicate x.generation 0]
      else if s.lane.state = .free then
        answered t { s.lane with
          state := .held, holder := some q.slot, holderRing := some r, settleTimer := none
          lsel := q.slot, len := true } (some .holder)
          [result .granted x.generation (x.desc.laneWidth.getD 0)]
      else if limit = 0 then
        answered t s.lane none [result .laneBusy x.generation s.lane.waiters.length]
      else answered t { s.lane with
        waiters := s.lane.waiters ++
          [{ slot := q.slot, ring := r, tag := q.tag, generation := x.generation, ringHead := head
             limit := limit, timer := if limit = 65535 then none else some limit }] }
        (some .waiter) [])
    ∧ (q.kind = .releaseLane → ∃ t, exec (.recordReadDone (some l)) s = .next t ∧
      if s.lane.state = .held ∧ s.lane.holder = some q.slot ∧ s.lane.holderRing = some r then
        answered t { s.lane with
          state := if s.lane.waiters = [] then .free else .settling, holder := none, holderRing := none
          settleTimer := if s.lane.waiters = [] then none else some s.lane.settleInterval
          len := false } (some .none) [result .success 0 s.lane.waiters.length]
      else answered t s.lane none [result .notHeld 0 0])

/-- The lane's timers (R154, R157, R159, R160): the end of a settling grants the head waiter, or leads to FREE; the
end of a wait removes the waiter with TIMEOUT and its wait limit. -/
def Obligations.LaneTimersExpire : Prop :=
  ∀ s : State, s.lane.Sound →
    (s.lane.state = .settling → s.lane.waiters = [] →
      exec .settleTimerExpiryLane s
        = .next { s with lane := { s.lane with state := .free, settleTimer := none } })
    ∧ (∀ w ws, s.lane.state = .settling → s.lane.waiters = w :: ws →
      ∃ t, exec .settleTimerExpiryLane s = .next t
        ∧ t = { s with
          slots := t.slots, compRings := t.compRings
          lane := { s.lane with
            state := .held, holder := some w.slot, holderRing := some w.ring, waiters := ws
            settleTimer := none, lsel := w.slot, len := true } }
        ∧ (∀ m, t.slot m = if m = w.slot then { s.slot m with laneRole := .holder } else s.slot m)
        ∧ s.handed t [completionOf w.ring w.tag w.slot.val w.ringHead .granted
            (s.slot w.slot).generation ((s.slot w.slot).desc.laneWidth.getD 0)])
    ∧ ∀ w ∈ s.lane.waiters, w.timer.isSome = true →
      ∃ t, exec (.waitTimerExpiry w.slot) s = .next t
        ∧ t = { s with
          slots := t.slots, compRings := t.compRings
          lane := { s.lane with waiters := s.lane.waiters.filter fun v => v.slot ≠ w.slot } }
        ∧ (∀ m, t.slot m = if m = w.slot then { s.slot m with laneRole := .none } else s.slot m)
        ∧ s.handed t [completionOf w.ring w.tag w.slot.val w.ringHead .timeout w.generation w.limit]
end

