-- ==== Sys2Proof/Laws/Buffer.lean ====
section
/-! SUPPORT. The data buffer: a read after a write, and every write keeps the canonical form. -/

namespace Sys2Proof.Machine

/-- Every position of the list lies above a bound. -/
def Buffer.above (b : Buffer) (lo : Nat) : Prop := ∀ c ∈ b, lo < c.1

theorem Buffer.wf_cons {k : Nat} {v : Byte} {rest : Buffer} (h : Buffer.wf ((k, v) :: rest) = true) :
    k < 2048 ∧ v ≠ 0 ∧ Buffer.above rest k ∧ Buffer.wf rest = true := by
  induction rest generalizing k v with
  | nil =>
    unfold Buffer.wf at h
    rw [Bool.and_eq_true, Bool.and_eq_true, Bool.and_eq_true, decide_eq_true_eq, decide_eq_true_eq] at h
    exact ⟨h.1.1.1, h.1.1.2, nofun, rfl⟩
  | cons c rest ih =>
    obtain ⟨k', v'⟩ := c
    unfold Buffer.wf at h
    simp only [Bool.and_eq_true, decide_eq_true_eq] at h
    obtain ⟨⟨⟨h1, h2⟩, h3⟩, h4⟩ := h
    obtain ⟨_, _, h5, _⟩ := ih h4
    refine ⟨h1, h2, fun d hd => ?_, h4⟩
    rw [List.mem_cons] at hd
    obtain hd | hd := hd
    · rw [hd]; exact h3
    · exact Nat.lt_trans h3 (h5 d hd)

theorem Buffer.wf_of_cons {k : Nat} {v : Byte} {rest : Buffer} (h1 : k < 2048) (h2 : v ≠ 0)
    (h3 : Buffer.above rest k) (h4 : Buffer.wf rest = true) : Buffer.wf ((k, v) :: rest) = true := by
  unfold Buffer.wf
  simp only [Bool.and_eq_true, decide_eq_true_eq]
  refine ⟨⟨⟨h1, h2⟩, ?_⟩, h4⟩
  cases rest with
  | nil => rfl
  | cons c rest => simpa using h3 c (by simp)

theorem Buffer.read_above (b : Buffer) (a : Nat) (h : Buffer.above b a) : Buffer.read b a = 0 := by
  induction b with
  | nil => rfl
  | cons c b ih =>
    obtain ⟨k, v⟩ := c
    have hk : a < k := h (k, v) (by simp)
    unfold Buffer.read
    rw [if_neg (by omega)]
    exact ih fun d hd => h d (by simp [hd])

theorem Buffer.write_above (b : Buffer) (a lo : Nat) (v : Byte) (ha : lo < a) (h : Buffer.above b lo) :
    Buffer.above (Buffer.write b a v) lo := by
  induction b with
  | nil =>
    unfold Buffer.write
    split
    · exact h
    · intro c hc; simp at hc; simp [hc, ha]
  | cons c b ih =>
    obtain ⟨k, w⟩ := c
    have h' : Buffer.above b lo := fun d hd => h d (by simp [hd])
    have hk : lo < k := h (k, w) (by simp)
    unfold Buffer.write
    split
    · split
      · exact h
      · intro d hd; rw [List.mem_cons] at hd; obtain hd | hd := hd
        · rw [hd]; exact ha
        · exact h d hd
    · split
      · split
        · exact h'
        · intro d hd; rw [List.mem_cons] at hd; obtain hd | hd := hd
          · rw [hd]; exact ha
          · exact h' d hd
      · intro d hd; rw [List.mem_cons] at hd; obtain hd | hd := hd
        · rw [hd]; exact hk
        · exact ih h' d hd

/-- A write below 2048 keeps the canonical form. -/
theorem Buffer.write_wf (b : Buffer) (a : Nat) (v : Byte) (ha : a < 2048) (h : Buffer.wf b = true) :
    Buffer.wf (Buffer.write b a v) = true := by
  induction b with
  | nil =>
    unfold Buffer.write
    split
    · rfl
    · rename_i hv
      exact Buffer.wf_of_cons ha hv (by intro c hc; cases hc) rfl
  | cons c b ih =>
    obtain ⟨k, w⟩ := c
    obtain ⟨h1, h2, h3, h4⟩ := Buffer.wf_cons h
    unfold Buffer.write
    split
    · split
      · exact h
      · rename_i hak hv
        refine Buffer.wf_of_cons ha hv (fun d hd => ?_) h
        rw [List.mem_cons] at hd
        obtain hd | hd := hd
        · rw [hd]; exact hak
        · exact Nat.lt_trans hak (h3 d hd)
    · split
      · rename_i hak; subst hak
        split
        · exact h4
        · rename_i hv; exact Buffer.wf_of_cons ha hv h3 h4
      · exact Buffer.wf_of_cons h1 h2 (Buffer.write_above b a k v (by omega) h3) (ih h4)

/-- A read after a write: the value written at its position, elsewhere what stood there. -/
theorem Buffer.read_write (b : Buffer) (a x : Nat) (v : Byte) (h : Buffer.wf b = true) :
    Buffer.read (Buffer.write b a v) x = if x = a then v else Buffer.read b x := by
  induction b with
  | nil =>
    unfold Buffer.write
    split
    · rename_i hv; subst hv; simp [Buffer.read]
    · by_cases hx : x = a
      · subst hx; simp [Buffer.read]
      · simp [Buffer.read, hx, Ne.symm hx]
  | cons c b ih =>
    obtain ⟨k, w⟩ := c
    obtain ⟨h1, h2, h3, h4⟩ := Buffer.wf_cons h
    unfold Buffer.write
    split
    · rename_i hak
      have h0 : Buffer.read ((k, w) :: b) a = 0 := Buffer.read_above _ _ fun d hd => by
        rw [List.mem_cons] at hd
        obtain hd | hd := hd
        · rw [hd]; exact hak
        · exact Nat.lt_trans hak (h3 d hd)
      split
      · rename_i hv; subst hv
        split
        · rename_i hx; rw [hx, h0]
        · rfl
      · by_cases hx : x = a
        · subst hx; simp [Buffer.read]
        · conv_lhs => unfold Buffer.read
          simp [hx, Ne.symm hx]
    · split
      · rename_i hak; subst hak
        split
        · rename_i hv; subst hv
          by_cases hx : x = a
          · subst hx; simpa using Buffer.read_above b x h3
          · simp [Buffer.read, hx, Ne.symm hx]
        · by_cases hx : x = a
          · subst hx; simp [Buffer.read]
          · simp [Buffer.read, hx, Ne.symm hx]
      · rename_i h5 h6
        unfold Buffer.read
        by_cases hx : k = x
        · subst hx; simp [Ne.symm h6]
        · simp only [hx, if_false]; exact ih h4

/-- Writing several bytes keeps the canonical form. -/
theorem Buffer.writeAll_wf (b : Buffer) (a : Nat) (vs : List Byte) (ha : a + vs.length ≤ 2048)
    (h : Buffer.wf b = true) : Buffer.wf (Buffer.writeAll b a vs) = true := by
  induction vs generalizing b a with
  | nil => exact h
  | cons v vs ih =>
    simp only [List.length_cons] at ha
    exact ih _ _ (by omega) (Buffer.write_wf b a v (by omega) h)

/-- A read after writing several bytes. -/
theorem Buffer.read_writeAll (b : Buffer) (a x : Nat) (vs : List Byte) (ha : a + vs.length ≤ 2048)
    (h : Buffer.wf b = true) : Buffer.read (Buffer.writeAll b a vs) x =
      if a ≤ x ∧ x < a + vs.length then vs.getD (x - a) 0 else Buffer.read b x := by
  induction vs generalizing b a with
  | nil => simp [Buffer.writeAll, Nat.not_lt.mpr]
  | cons v vs ih =>
    simp only [List.length_cons] at ha
    unfold Buffer.writeAll
    rw [ih _ _ (by omega) (Buffer.write_wf b a v (by omega) h), Buffer.read_write b a x v h]
    simp only [List.length_cons]
    by_cases hx : x = a
    · subst hx
      rw [if_neg (by omega), if_pos rfl, if_pos (by omega)]; simp
    · by_cases h2 : a ≤ x ∧ x < a + (vs.length + 1)
      · rw [if_pos (by omega), if_pos h2]
        obtain ⟨i, hi⟩ : ∃ i, x - a = i + 1 := ⟨x - a - 1, by omega⟩
        rw [hi, show x - (a + 1) = i by omega]; simp
      · rw [if_neg (by omega), if_neg h2, if_neg hx]

/-- Several reads, one for each position. -/
theorem Buffer.readAll_eq (b : Buffer) (a len : Nat) :
    Buffer.readAll b a len = (List.range len).map fun i => Buffer.read b (a + i) := by
  induction len generalizing a with
  | zero => rfl
  | succ len ih =>
    unfold Buffer.readAll
    rw [ih, List.range_succ_eq_map, List.map_cons, List.map_map]
    congr 1
    apply List.map_congr_left
    intro i _
    simp only [Function.comp]
    congr 1
    omega

end Sys2Proof.Machine
end

