-- ==== Sys2Proof/Laws/State.lean ====
section
/-! SUPPORT. One lemma for each field under each named update of the state, and for each accessor. -/

namespace Sys2Proof.Machine

variable (s : State)

@[simp] theorem State.modSlot_eq (n : SlotId) (f : Slot → Slot) : s.modSlot n f = s.setSlot n (f (s.slot n)) := rfl
@[simp] theorem State.modEngine_eq (n : SlotId) (f : Engine → Engine) : s.modEngine n f = s.setEngine n (f (s.engine n)) := rfl
@[simp] theorem State.modRing_eq (n : RingId) (f : RequestRing → RequestRing) : s.modRing n f = s.setRing n (f (s.ring n)) := rfl
@[simp] theorem State.modComp_eq (n : CompRingId) (f : CompletionRing → CompletionRing) : s.modComp n f = s.setComp n (f (s.comp n)) := rfl

@[simp] theorem State.setSlot_pending (n : SlotId) (x : Slot) : (s.setSlot n x).pending = s.pending := rfl
@[simp] theorem State.setSlot_condition (n : SlotId) (x : Slot) : (s.setSlot n x).condition = s.condition := rfl
@[simp] theorem State.setSlot_intEnable (n : SlotId) (x : Slot) : (s.setSlot n x).intEnable = s.intEnable := rfl
@[simp] theorem State.setSlot_haltCause (n : SlotId) (x : Slot) : (s.setSlot n x).haltCause = s.haltCause := rfl
@[simp] theorem State.setSlot_postError (n : SlotId) (x : Slot) : (s.setSlot n x).postError = s.postError := rfl
@[simp] theorem State.setSlot_startLo (n : SlotId) (x : Slot) : (s.setSlot n x).startLo = s.startLo := rfl
@[simp] theorem State.setSlot_startHi (n : SlotId) (x : Slot) : (s.setSlot n x).startHi = s.startHi := rfl
@[simp] theorem State.setSlot_startCopy (n : SlotId) (x : Slot) : (s.setSlot n x).startCopy = s.startCopy := rfl
@[simp] theorem State.setSlot_startRead (n : SlotId) (x : Slot) : (s.setSlot n x).startRead = s.startRead := rfl
@[simp] theorem State.setSlot_startMoot (n : SlotId) (x : Slot) : (s.setSlot n x).startMoot = s.startMoot := rfl
@[simp] theorem State.setSlot_laneFitted (n : SlotId) (x : Slot) : (s.setSlot n x).laneFitted = s.laneFitted := rfl
@[simp] theorem State.setSlot_inReset (n : SlotId) (x : Slot) : (s.setSlot n x).inReset = s.inReset := rfl
@[simp] theorem State.setSlot_readData (n : SlotId) (x : Slot) : (s.setSlot n x).readData = s.readData := rfl
@[simp] theorem State.setSlot_engines (n : SlotId) (x : Slot) : (s.setSlot n x).engines = s.engines := rfl
@[simp] theorem State.setSlot_rings (n : SlotId) (x : Slot) : (s.setSlot n x).rings = s.rings := rfl
@[simp] theorem State.setSlot_roundRobin (n : SlotId) (x : Slot) : (s.setSlot n x).roundRobin = s.roundRobin := rfl
@[simp] theorem State.setSlot_recordRead (n : SlotId) (x : Slot) : (s.setSlot n x).recordRead = s.recordRead := rfl
@[simp] theorem State.setSlot_waitOrders (n : SlotId) (x : Slot) : (s.setSlot n x).waitOrders = s.waitOrders := rfl
@[simp] theorem State.setSlot_control (n : SlotId) (x : Slot) : (s.setSlot n x).control = s.control := rfl
@[simp] theorem State.setSlot_snapshotWrite (n : SlotId) (x : Slot) : (s.setSlot n x).snapshotWrite = s.snapshotWrite := rfl
@[simp] theorem State.setSlot_deferred (n : SlotId) (x : Slot) : (s.setSlot n x).deferred = s.deferred := rfl
@[simp] theorem State.setSlot_locks (n : SlotId) (x : Slot) : (s.setSlot n x).locks = s.locks := rfl
@[simp] theorem State.setSlot_lane (n : SlotId) (x : Slot) : (s.setSlot n x).lane = s.lane := rfl
@[simp] theorem State.setSlot_compRings (n : SlotId) (x : Slot) : (s.setSlot n x).compRings = s.compRings := rfl
@[simp] theorem State.setSlot_notices (n : SlotId) (x : Slot) : (s.setSlot n x).notices = s.notices := rfl
@[simp] theorem State.setSlot_slotDirty (n : SlotId) (x : Slot) : (s.setSlot n x).slotDirty = s.slotDirty := rfl
@[simp] theorem State.setSlot_ringDirty (n : SlotId) (x : Slot) : (s.setSlot n x).ringDirty = s.ringDirty := rfl
@[simp] theorem State.setSlot_vectorPending (n : SlotId) (x : Slot) : (s.setSlot n x).vectorPending = s.vectorPending := rfl
@[simp] theorem State.setSlot_vectorMasked (n : SlotId) (x : Slot) : (s.setSlot n x).vectorMasked = s.vectorMasked := rfl
@[simp] theorem State.setSlot_messagesSent (n : SlotId) (x : Slot) : (s.setSlot n x).messagesSent = s.messagesSent := rfl
@[simp] theorem State.setSlot_freeCount (n : SlotId) (x : Slot) : (s.setSlot n x).freeCount = s.freeCount := rfl
@[simp] theorem State.setSlot_halted (n : SlotId) (x : Slot) : (s.setSlot n x).halted = s.halted := rfl
@[simp] theorem State.setSlot_engine (n : SlotId) (x : Slot) (k : SlotId) : (s.setSlot n x).engine k = s.engine k := rfl
@[simp] theorem State.setSlot_ring (n : SlotId) (x : Slot) (k : RingId) : (s.setSlot n x).ring k = s.ring k := rfl
@[simp] theorem State.setSlot_comp (n : SlotId) (x : Slot) (k : CompRingId) : (s.setSlot n x).comp k = s.comp k := rfl
@[simp] theorem State.setSlot_waitOrder (n : SlotId) (x : Slot) (k : SlotId) : (s.setSlot n x).waitOrder k = s.waitOrder k := rfl
@[simp] theorem State.setSlot_dirtySlot (n : SlotId) (x : Slot) (k : SlotId) : (s.setSlot n x).dirtySlot k = s.dirtySlot k := rfl
@[simp] theorem State.setSlot_dirtyRing (n : SlotId) (x : Slot) (k : RingId) : (s.setSlot n x).dirtyRing k = s.dirtyRing k := rfl
@[simp] theorem State.setSlot_vecPending (n : SlotId) (x : Slot) (k : VectorId) : (s.setSlot n x).vecPending k = s.vecPending k := rfl
@[simp] theorem State.setSlot_vecMasked (n : SlotId) (x : Slot) (k : VectorId) : (s.setSlot n x).vecMasked k = s.vecMasked k := rfl
@[simp] theorem State.setSlot_msgCount (n : SlotId) (x : Slot) (k : VectorId) : (s.setSlot n x).msgCount k = s.msgCount k := rfl

@[simp] theorem State.setEngine_pending (n : SlotId) (x : Engine) : (s.setEngine n x).pending = s.pending := rfl
@[simp] theorem State.setEngine_condition (n : SlotId) (x : Engine) : (s.setEngine n x).condition = s.condition := rfl
@[simp] theorem State.setEngine_intEnable (n : SlotId) (x : Engine) : (s.setEngine n x).intEnable = s.intEnable := rfl
@[simp] theorem State.setEngine_haltCause (n : SlotId) (x : Engine) : (s.setEngine n x).haltCause = s.haltCause := rfl
@[simp] theorem State.setEngine_postError (n : SlotId) (x : Engine) : (s.setEngine n x).postError = s.postError := rfl
@[simp] theorem State.setEngine_startLo (n : SlotId) (x : Engine) : (s.setEngine n x).startLo = s.startLo := rfl
@[simp] theorem State.setEngine_startHi (n : SlotId) (x : Engine) : (s.setEngine n x).startHi = s.startHi := rfl
@[simp] theorem State.setEngine_startCopy (n : SlotId) (x : Engine) : (s.setEngine n x).startCopy = s.startCopy := rfl
@[simp] theorem State.setEngine_startRead (n : SlotId) (x : Engine) : (s.setEngine n x).startRead = s.startRead := rfl
@[simp] theorem State.setEngine_startMoot (n : SlotId) (x : Engine) : (s.setEngine n x).startMoot = s.startMoot := rfl
@[simp] theorem State.setEngine_laneFitted (n : SlotId) (x : Engine) : (s.setEngine n x).laneFitted = s.laneFitted := rfl
@[simp] theorem State.setEngine_inReset (n : SlotId) (x : Engine) : (s.setEngine n x).inReset = s.inReset := rfl
@[simp] theorem State.setEngine_readData (n : SlotId) (x : Engine) : (s.setEngine n x).readData = s.readData := rfl
@[simp] theorem State.setEngine_slots (n : SlotId) (x : Engine) : (s.setEngine n x).slots = s.slots := rfl
@[simp] theorem State.setEngine_rings (n : SlotId) (x : Engine) : (s.setEngine n x).rings = s.rings := rfl
@[simp] theorem State.setEngine_roundRobin (n : SlotId) (x : Engine) : (s.setEngine n x).roundRobin = s.roundRobin := rfl
@[simp] theorem State.setEngine_recordRead (n : SlotId) (x : Engine) : (s.setEngine n x).recordRead = s.recordRead := rfl
@[simp] theorem State.setEngine_waitOrders (n : SlotId) (x : Engine) : (s.setEngine n x).waitOrders = s.waitOrders := rfl
@[simp] theorem State.setEngine_control (n : SlotId) (x : Engine) : (s.setEngine n x).control = s.control := rfl
@[simp] theorem State.setEngine_snapshotWrite (n : SlotId) (x : Engine) : (s.setEngine n x).snapshotWrite = s.snapshotWrite := rfl
@[simp] theorem State.setEngine_deferred (n : SlotId) (x : Engine) : (s.setEngine n x).deferred = s.deferred := rfl
@[simp] theorem State.setEngine_locks (n : SlotId) (x : Engine) : (s.setEngine n x).locks = s.locks := rfl
@[simp] theorem State.setEngine_lane (n : SlotId) (x : Engine) : (s.setEngine n x).lane = s.lane := rfl
@[simp] theorem State.setEngine_compRings (n : SlotId) (x : Engine) : (s.setEngine n x).compRings = s.compRings := rfl
@[simp] theorem State.setEngine_notices (n : SlotId) (x : Engine) : (s.setEngine n x).notices = s.notices := rfl
@[simp] theorem State.setEngine_slotDirty (n : SlotId) (x : Engine) : (s.setEngine n x).slotDirty = s.slotDirty := rfl
@[simp] theorem State.setEngine_ringDirty (n : SlotId) (x : Engine) : (s.setEngine n x).ringDirty = s.ringDirty := rfl
@[simp] theorem State.setEngine_vectorPending (n : SlotId) (x : Engine) : (s.setEngine n x).vectorPending = s.vectorPending := rfl
@[simp] theorem State.setEngine_vectorMasked (n : SlotId) (x : Engine) : (s.setEngine n x).vectorMasked = s.vectorMasked := rfl
@[simp] theorem State.setEngine_messagesSent (n : SlotId) (x : Engine) : (s.setEngine n x).messagesSent = s.messagesSent := rfl
@[simp] theorem State.setEngine_freeCount (n : SlotId) (x : Engine) : (s.setEngine n x).freeCount = s.freeCount := rfl
@[simp] theorem State.setEngine_halted (n : SlotId) (x : Engine) : (s.setEngine n x).halted = s.halted := rfl
@[simp] theorem State.setEngine_slot (n : SlotId) (x : Engine) (k : SlotId) : (s.setEngine n x).slot k = s.slot k := rfl
@[simp] theorem State.setEngine_ring (n : SlotId) (x : Engine) (k : RingId) : (s.setEngine n x).ring k = s.ring k := rfl
@[simp] theorem State.setEngine_comp (n : SlotId) (x : Engine) (k : CompRingId) : (s.setEngine n x).comp k = s.comp k := rfl
@[simp] theorem State.setEngine_waitOrder (n : SlotId) (x : Engine) (k : SlotId) : (s.setEngine n x).waitOrder k = s.waitOrder k := rfl
@[simp] theorem State.setEngine_dirtySlot (n : SlotId) (x : Engine) (k : SlotId) : (s.setEngine n x).dirtySlot k = s.dirtySlot k := rfl
@[simp] theorem State.setEngine_dirtyRing (n : SlotId) (x : Engine) (k : RingId) : (s.setEngine n x).dirtyRing k = s.dirtyRing k := rfl
@[simp] theorem State.setEngine_vecPending (n : SlotId) (x : Engine) (k : VectorId) : (s.setEngine n x).vecPending k = s.vecPending k := rfl
@[simp] theorem State.setEngine_vecMasked (n : SlotId) (x : Engine) (k : VectorId) : (s.setEngine n x).vecMasked k = s.vecMasked k := rfl
@[simp] theorem State.setEngine_msgCount (n : SlotId) (x : Engine) (k : VectorId) : (s.setEngine n x).msgCount k = s.msgCount k := rfl

@[simp] theorem State.setRing_pending (r : RingId) (x : RequestRing) : (s.setRing r x).pending = s.pending := rfl
@[simp] theorem State.setRing_condition (r : RingId) (x : RequestRing) : (s.setRing r x).condition = s.condition := rfl
@[simp] theorem State.setRing_intEnable (r : RingId) (x : RequestRing) : (s.setRing r x).intEnable = s.intEnable := rfl
@[simp] theorem State.setRing_haltCause (r : RingId) (x : RequestRing) : (s.setRing r x).haltCause = s.haltCause := rfl
@[simp] theorem State.setRing_postError (r : RingId) (x : RequestRing) : (s.setRing r x).postError = s.postError := rfl
@[simp] theorem State.setRing_startLo (r : RingId) (x : RequestRing) : (s.setRing r x).startLo = s.startLo := rfl
@[simp] theorem State.setRing_startHi (r : RingId) (x : RequestRing) : (s.setRing r x).startHi = s.startHi := rfl
@[simp] theorem State.setRing_startCopy (r : RingId) (x : RequestRing) : (s.setRing r x).startCopy = s.startCopy := rfl
@[simp] theorem State.setRing_startRead (r : RingId) (x : RequestRing) : (s.setRing r x).startRead = s.startRead := rfl
@[simp] theorem State.setRing_startMoot (r : RingId) (x : RequestRing) : (s.setRing r x).startMoot = s.startMoot := rfl
@[simp] theorem State.setRing_laneFitted (r : RingId) (x : RequestRing) : (s.setRing r x).laneFitted = s.laneFitted := rfl
@[simp] theorem State.setRing_inReset (r : RingId) (x : RequestRing) : (s.setRing r x).inReset = s.inReset := rfl
@[simp] theorem State.setRing_readData (r : RingId) (x : RequestRing) : (s.setRing r x).readData = s.readData := rfl
@[simp] theorem State.setRing_slots (r : RingId) (x : RequestRing) : (s.setRing r x).slots = s.slots := rfl
@[simp] theorem State.setRing_engines (r : RingId) (x : RequestRing) : (s.setRing r x).engines = s.engines := rfl
@[simp] theorem State.setRing_roundRobin (r : RingId) (x : RequestRing) : (s.setRing r x).roundRobin = s.roundRobin := rfl
@[simp] theorem State.setRing_recordRead (r : RingId) (x : RequestRing) : (s.setRing r x).recordRead = s.recordRead := rfl
@[simp] theorem State.setRing_waitOrders (r : RingId) (x : RequestRing) : (s.setRing r x).waitOrders = s.waitOrders := rfl
@[simp] theorem State.setRing_control (r : RingId) (x : RequestRing) : (s.setRing r x).control = s.control := rfl
@[simp] theorem State.setRing_snapshotWrite (r : RingId) (x : RequestRing) : (s.setRing r x).snapshotWrite = s.snapshotWrite := rfl
@[simp] theorem State.setRing_deferred (r : RingId) (x : RequestRing) : (s.setRing r x).deferred = s.deferred := rfl
@[simp] theorem State.setRing_locks (r : RingId) (x : RequestRing) : (s.setRing r x).locks = s.locks := rfl
@[simp] theorem State.setRing_lane (r : RingId) (x : RequestRing) : (s.setRing r x).lane = s.lane := rfl
@[simp] theorem State.setRing_compRings (r : RingId) (x : RequestRing) : (s.setRing r x).compRings = s.compRings := rfl
@[simp] theorem State.setRing_notices (r : RingId) (x : RequestRing) : (s.setRing r x).notices = s.notices := rfl
@[simp] theorem State.setRing_slotDirty (r : RingId) (x : RequestRing) : (s.setRing r x).slotDirty = s.slotDirty := rfl
@[simp] theorem State.setRing_ringDirty (r : RingId) (x : RequestRing) : (s.setRing r x).ringDirty = s.ringDirty := rfl
@[simp] theorem State.setRing_vectorPending (r : RingId) (x : RequestRing) : (s.setRing r x).vectorPending = s.vectorPending := rfl
@[simp] theorem State.setRing_vectorMasked (r : RingId) (x : RequestRing) : (s.setRing r x).vectorMasked = s.vectorMasked := rfl
@[simp] theorem State.setRing_messagesSent (r : RingId) (x : RequestRing) : (s.setRing r x).messagesSent = s.messagesSent := rfl
@[simp] theorem State.setRing_freeCount (r : RingId) (x : RequestRing) : (s.setRing r x).freeCount = s.freeCount := rfl
@[simp] theorem State.setRing_halted (r : RingId) (x : RequestRing) : (s.setRing r x).halted = s.halted := rfl
@[simp] theorem State.setRing_slot (r : RingId) (x : RequestRing) (k : SlotId) : (s.setRing r x).slot k = s.slot k := rfl
@[simp] theorem State.setRing_engine (r : RingId) (x : RequestRing) (k : SlotId) : (s.setRing r x).engine k = s.engine k := rfl
@[simp] theorem State.setRing_comp (r : RingId) (x : RequestRing) (k : CompRingId) : (s.setRing r x).comp k = s.comp k := rfl
@[simp] theorem State.setRing_waitOrder (r : RingId) (x : RequestRing) (k : SlotId) : (s.setRing r x).waitOrder k = s.waitOrder k := rfl
@[simp] theorem State.setRing_dirtySlot (r : RingId) (x : RequestRing) (k : SlotId) : (s.setRing r x).dirtySlot k = s.dirtySlot k := rfl
@[simp] theorem State.setRing_dirtyRing (r : RingId) (x : RequestRing) (k : RingId) : (s.setRing r x).dirtyRing k = s.dirtyRing k := rfl
@[simp] theorem State.setRing_vecPending (r : RingId) (x : RequestRing) (k : VectorId) : (s.setRing r x).vecPending k = s.vecPending k := rfl
@[simp] theorem State.setRing_vecMasked (r : RingId) (x : RequestRing) (k : VectorId) : (s.setRing r x).vecMasked k = s.vecMasked k := rfl
@[simp] theorem State.setRing_msgCount (r : RingId) (x : RequestRing) (k : VectorId) : (s.setRing r x).msgCount k = s.msgCount k := rfl

@[simp] theorem State.setComp_pending (c : CompRingId) (x : CompletionRing) : (s.setComp c x).pending = s.pending := rfl
@[simp] theorem State.setComp_condition (c : CompRingId) (x : CompletionRing) : (s.setComp c x).condition = s.condition := rfl
@[simp] theorem State.setComp_intEnable (c : CompRingId) (x : CompletionRing) : (s.setComp c x).intEnable = s.intEnable := rfl
@[simp] theorem State.setComp_haltCause (c : CompRingId) (x : CompletionRing) : (s.setComp c x).haltCause = s.haltCause := rfl
@[simp] theorem State.setComp_postError (c : CompRingId) (x : CompletionRing) : (s.setComp c x).postError = s.postError := rfl
@[simp] theorem State.setComp_startLo (c : CompRingId) (x : CompletionRing) : (s.setComp c x).startLo = s.startLo := rfl
@[simp] theorem State.setComp_startHi (c : CompRingId) (x : CompletionRing) : (s.setComp c x).startHi = s.startHi := rfl
@[simp] theorem State.setComp_startCopy (c : CompRingId) (x : CompletionRing) : (s.setComp c x).startCopy = s.startCopy := rfl
@[simp] theorem State.setComp_startRead (c : CompRingId) (x : CompletionRing) : (s.setComp c x).startRead = s.startRead := rfl
@[simp] theorem State.setComp_startMoot (c : CompRingId) (x : CompletionRing) : (s.setComp c x).startMoot = s.startMoot := rfl
@[simp] theorem State.setComp_laneFitted (c : CompRingId) (x : CompletionRing) : (s.setComp c x).laneFitted = s.laneFitted := rfl
@[simp] theorem State.setComp_inReset (c : CompRingId) (x : CompletionRing) : (s.setComp c x).inReset = s.inReset := rfl
@[simp] theorem State.setComp_readData (c : CompRingId) (x : CompletionRing) : (s.setComp c x).readData = s.readData := rfl
@[simp] theorem State.setComp_slots (c : CompRingId) (x : CompletionRing) : (s.setComp c x).slots = s.slots := rfl
@[simp] theorem State.setComp_engines (c : CompRingId) (x : CompletionRing) : (s.setComp c x).engines = s.engines := rfl
@[simp] theorem State.setComp_rings (c : CompRingId) (x : CompletionRing) : (s.setComp c x).rings = s.rings := rfl
@[simp] theorem State.setComp_roundRobin (c : CompRingId) (x : CompletionRing) : (s.setComp c x).roundRobin = s.roundRobin := rfl
@[simp] theorem State.setComp_recordRead (c : CompRingId) (x : CompletionRing) : (s.setComp c x).recordRead = s.recordRead := rfl
@[simp] theorem State.setComp_waitOrders (c : CompRingId) (x : CompletionRing) : (s.setComp c x).waitOrders = s.waitOrders := rfl
@[simp] theorem State.setComp_control (c : CompRingId) (x : CompletionRing) : (s.setComp c x).control = s.control := rfl
@[simp] theorem State.setComp_snapshotWrite (c : CompRingId) (x : CompletionRing) : (s.setComp c x).snapshotWrite = s.snapshotWrite := rfl
@[simp] theorem State.setComp_deferred (c : CompRingId) (x : CompletionRing) : (s.setComp c x).deferred = s.deferred := rfl
@[simp] theorem State.setComp_locks (c : CompRingId) (x : CompletionRing) : (s.setComp c x).locks = s.locks := rfl
@[simp] theorem State.setComp_lane (c : CompRingId) (x : CompletionRing) : (s.setComp c x).lane = s.lane := rfl
@[simp] theorem State.setComp_notices (c : CompRingId) (x : CompletionRing) : (s.setComp c x).notices = s.notices := rfl
@[simp] theorem State.setComp_slotDirty (c : CompRingId) (x : CompletionRing) : (s.setComp c x).slotDirty = s.slotDirty := rfl
@[simp] theorem State.setComp_ringDirty (c : CompRingId) (x : CompletionRing) : (s.setComp c x).ringDirty = s.ringDirty := rfl
@[simp] theorem State.setComp_vectorPending (c : CompRingId) (x : CompletionRing) : (s.setComp c x).vectorPending = s.vectorPending := rfl
@[simp] theorem State.setComp_vectorMasked (c : CompRingId) (x : CompletionRing) : (s.setComp c x).vectorMasked = s.vectorMasked := rfl
@[simp] theorem State.setComp_messagesSent (c : CompRingId) (x : CompletionRing) : (s.setComp c x).messagesSent = s.messagesSent := rfl
@[simp] theorem State.setComp_freeCount (c : CompRingId) (x : CompletionRing) : (s.setComp c x).freeCount = s.freeCount := rfl
@[simp] theorem State.setComp_halted (c : CompRingId) (x : CompletionRing) : (s.setComp c x).halted = s.halted := rfl
@[simp] theorem State.setComp_slot (c : CompRingId) (x : CompletionRing) (k : SlotId) : (s.setComp c x).slot k = s.slot k := rfl
@[simp] theorem State.setComp_engine (c : CompRingId) (x : CompletionRing) (k : SlotId) : (s.setComp c x).engine k = s.engine k := rfl
@[simp] theorem State.setComp_ring (c : CompRingId) (x : CompletionRing) (k : RingId) : (s.setComp c x).ring k = s.ring k := rfl
@[simp] theorem State.setComp_waitOrder (c : CompRingId) (x : CompletionRing) (k : SlotId) : (s.setComp c x).waitOrder k = s.waitOrder k := rfl
@[simp] theorem State.setComp_dirtySlot (c : CompRingId) (x : CompletionRing) (k : SlotId) : (s.setComp c x).dirtySlot k = s.dirtySlot k := rfl
@[simp] theorem State.setComp_dirtyRing (c : CompRingId) (x : CompletionRing) (k : RingId) : (s.setComp c x).dirtyRing k = s.dirtyRing k := rfl
@[simp] theorem State.setComp_vecPending (c : CompRingId) (x : CompletionRing) (k : VectorId) : (s.setComp c x).vecPending k = s.vecPending k := rfl
@[simp] theorem State.setComp_vecMasked (c : CompRingId) (x : CompletionRing) (k : VectorId) : (s.setComp c x).vecMasked k = s.vecMasked k := rfl
@[simp] theorem State.setComp_msgCount (c : CompRingId) (x : CompletionRing) (k : VectorId) : (s.setComp c x).msgCount k = s.msgCount k := rfl

@[simp] theorem State.setWaitOrder_pending (n : SlotId) (x : List RingId) : (s.setWaitOrder n x).pending = s.pending := rfl
@[simp] theorem State.setWaitOrder_condition (n : SlotId) (x : List RingId) : (s.setWaitOrder n x).condition = s.condition := rfl
@[simp] theorem State.setWaitOrder_intEnable (n : SlotId) (x : List RingId) : (s.setWaitOrder n x).intEnable = s.intEnable := rfl
@[simp] theorem State.setWaitOrder_haltCause (n : SlotId) (x : List RingId) : (s.setWaitOrder n x).haltCause = s.haltCause := rfl
@[simp] theorem State.setWaitOrder_postError (n : SlotId) (x : List RingId) : (s.setWaitOrder n x).postError = s.postError := rfl
@[simp] theorem State.setWaitOrder_startLo (n : SlotId) (x : List RingId) : (s.setWaitOrder n x).startLo = s.startLo := rfl
@[simp] theorem State.setWaitOrder_startHi (n : SlotId) (x : List RingId) : (s.setWaitOrder n x).startHi = s.startHi := rfl
@[simp] theorem State.setWaitOrder_startCopy (n : SlotId) (x : List RingId) : (s.setWaitOrder n x).startCopy = s.startCopy := rfl
@[simp] theorem State.setWaitOrder_startRead (n : SlotId) (x : List RingId) : (s.setWaitOrder n x).startRead = s.startRead := rfl
@[simp] theorem State.setWaitOrder_startMoot (n : SlotId) (x : List RingId) : (s.setWaitOrder n x).startMoot = s.startMoot := rfl
@[simp] theorem State.setWaitOrder_laneFitted (n : SlotId) (x : List RingId) : (s.setWaitOrder n x).laneFitted = s.laneFitted := rfl
@[simp] theorem State.setWaitOrder_inReset (n : SlotId) (x : List RingId) : (s.setWaitOrder n x).inReset = s.inReset := rfl
@[simp] theorem State.setWaitOrder_readData (n : SlotId) (x : List RingId) : (s.setWaitOrder n x).readData = s.readData := rfl
@[simp] theorem State.setWaitOrder_slots (n : SlotId) (x : List RingId) : (s.setWaitOrder n x).slots = s.slots := rfl
@[simp] theorem State.setWaitOrder_engines (n : SlotId) (x : List RingId) : (s.setWaitOrder n x).engines = s.engines := rfl
@[simp] theorem State.setWaitOrder_rings (n : SlotId) (x : List RingId) : (s.setWaitOrder n x).rings = s.rings := rfl
@[simp] theorem State.setWaitOrder_roundRobin (n : SlotId) (x : List RingId) : (s.setWaitOrder n x).roundRobin = s.roundRobin := rfl
@[simp] theorem State.setWaitOrder_recordRead (n : SlotId) (x : List RingId) : (s.setWaitOrder n x).recordRead = s.recordRead := rfl
@[simp] theorem State.setWaitOrder_control (n : SlotId) (x : List RingId) : (s.setWaitOrder n x).control = s.control := rfl
@[simp] theorem State.setWaitOrder_snapshotWrite (n : SlotId) (x : List RingId) : (s.setWaitOrder n x).snapshotWrite = s.snapshotWrite := rfl
@[simp] theorem State.setWaitOrder_deferred (n : SlotId) (x : List RingId) : (s.setWaitOrder n x).deferred = s.deferred := rfl
@[simp] theorem State.setWaitOrder_locks (n : SlotId) (x : List RingId) : (s.setWaitOrder n x).locks = s.locks := rfl
@[simp] theorem State.setWaitOrder_lane (n : SlotId) (x : List RingId) : (s.setWaitOrder n x).lane = s.lane := rfl
@[simp] theorem State.setWaitOrder_compRings (n : SlotId) (x : List RingId) : (s.setWaitOrder n x).compRings = s.compRings := rfl
@[simp] theorem State.setWaitOrder_notices (n : SlotId) (x : List RingId) : (s.setWaitOrder n x).notices = s.notices := rfl
@[simp] theorem State.setWaitOrder_slotDirty (n : SlotId) (x : List RingId) : (s.setWaitOrder n x).slotDirty = s.slotDirty := rfl
@[simp] theorem State.setWaitOrder_ringDirty (n : SlotId) (x : List RingId) : (s.setWaitOrder n x).ringDirty = s.ringDirty := rfl
@[simp] theorem State.setWaitOrder_vectorPending (n : SlotId) (x : List RingId) : (s.setWaitOrder n x).vectorPending = s.vectorPending := rfl
@[simp] theorem State.setWaitOrder_vectorMasked (n : SlotId) (x : List RingId) : (s.setWaitOrder n x).vectorMasked = s.vectorMasked := rfl
@[simp] theorem State.setWaitOrder_messagesSent (n : SlotId) (x : List RingId) : (s.setWaitOrder n x).messagesSent = s.messagesSent := rfl
@[simp] theorem State.setWaitOrder_freeCount (n : SlotId) (x : List RingId) : (s.setWaitOrder n x).freeCount = s.freeCount := rfl
@[simp] theorem State.setWaitOrder_halted (n : SlotId) (x : List RingId) : (s.setWaitOrder n x).halted = s.halted := rfl
@[simp] theorem State.setWaitOrder_slot (n : SlotId) (x : List RingId) (k : SlotId) : (s.setWaitOrder n x).slot k = s.slot k := rfl
@[simp] theorem State.setWaitOrder_engine (n : SlotId) (x : List RingId) (k : SlotId) : (s.setWaitOrder n x).engine k = s.engine k := rfl
@[simp] theorem State.setWaitOrder_ring (n : SlotId) (x : List RingId) (k : RingId) : (s.setWaitOrder n x).ring k = s.ring k := rfl
@[simp] theorem State.setWaitOrder_comp (n : SlotId) (x : List RingId) (k : CompRingId) : (s.setWaitOrder n x).comp k = s.comp k := rfl
@[simp] theorem State.setWaitOrder_dirtySlot (n : SlotId) (x : List RingId) (k : SlotId) : (s.setWaitOrder n x).dirtySlot k = s.dirtySlot k := rfl
@[simp] theorem State.setWaitOrder_dirtyRing (n : SlotId) (x : List RingId) (k : RingId) : (s.setWaitOrder n x).dirtyRing k = s.dirtyRing k := rfl
@[simp] theorem State.setWaitOrder_vecPending (n : SlotId) (x : List RingId) (k : VectorId) : (s.setWaitOrder n x).vecPending k = s.vecPending k := rfl
@[simp] theorem State.setWaitOrder_vecMasked (n : SlotId) (x : List RingId) (k : VectorId) : (s.setWaitOrder n x).vecMasked k = s.vecMasked k := rfl
@[simp] theorem State.setWaitOrder_msgCount (n : SlotId) (x : List RingId) (k : VectorId) : (s.setWaitOrder n x).msgCount k = s.msgCount k := rfl

@[simp] theorem State.setDirtySlot_pending (n : SlotId) (x : SlotDirty) : (s.setDirtySlot n x).pending = s.pending := rfl
@[simp] theorem State.setDirtySlot_condition (n : SlotId) (x : SlotDirty) : (s.setDirtySlot n x).condition = s.condition := rfl
@[simp] theorem State.setDirtySlot_intEnable (n : SlotId) (x : SlotDirty) : (s.setDirtySlot n x).intEnable = s.intEnable := rfl
@[simp] theorem State.setDirtySlot_haltCause (n : SlotId) (x : SlotDirty) : (s.setDirtySlot n x).haltCause = s.haltCause := rfl
@[simp] theorem State.setDirtySlot_postError (n : SlotId) (x : SlotDirty) : (s.setDirtySlot n x).postError = s.postError := rfl
@[simp] theorem State.setDirtySlot_startLo (n : SlotId) (x : SlotDirty) : (s.setDirtySlot n x).startLo = s.startLo := rfl
@[simp] theorem State.setDirtySlot_startHi (n : SlotId) (x : SlotDirty) : (s.setDirtySlot n x).startHi = s.startHi := rfl
@[simp] theorem State.setDirtySlot_startCopy (n : SlotId) (x : SlotDirty) : (s.setDirtySlot n x).startCopy = s.startCopy := rfl
@[simp] theorem State.setDirtySlot_startRead (n : SlotId) (x : SlotDirty) : (s.setDirtySlot n x).startRead = s.startRead := rfl
@[simp] theorem State.setDirtySlot_startMoot (n : SlotId) (x : SlotDirty) : (s.setDirtySlot n x).startMoot = s.startMoot := rfl
@[simp] theorem State.setDirtySlot_laneFitted (n : SlotId) (x : SlotDirty) : (s.setDirtySlot n x).laneFitted = s.laneFitted := rfl
@[simp] theorem State.setDirtySlot_inReset (n : SlotId) (x : SlotDirty) : (s.setDirtySlot n x).inReset = s.inReset := rfl
@[simp] theorem State.setDirtySlot_readData (n : SlotId) (x : SlotDirty) : (s.setDirtySlot n x).readData = s.readData := rfl
@[simp] theorem State.setDirtySlot_slots (n : SlotId) (x : SlotDirty) : (s.setDirtySlot n x).slots = s.slots := rfl
@[simp] theorem State.setDirtySlot_engines (n : SlotId) (x : SlotDirty) : (s.setDirtySlot n x).engines = s.engines := rfl
@[simp] theorem State.setDirtySlot_rings (n : SlotId) (x : SlotDirty) : (s.setDirtySlot n x).rings = s.rings := rfl
@[simp] theorem State.setDirtySlot_roundRobin (n : SlotId) (x : SlotDirty) : (s.setDirtySlot n x).roundRobin = s.roundRobin := rfl
@[simp] theorem State.setDirtySlot_recordRead (n : SlotId) (x : SlotDirty) : (s.setDirtySlot n x).recordRead = s.recordRead := rfl
@[simp] theorem State.setDirtySlot_waitOrders (n : SlotId) (x : SlotDirty) : (s.setDirtySlot n x).waitOrders = s.waitOrders := rfl
@[simp] theorem State.setDirtySlot_control (n : SlotId) (x : SlotDirty) : (s.setDirtySlot n x).control = s.control := rfl
@[simp] theorem State.setDirtySlot_snapshotWrite (n : SlotId) (x : SlotDirty) : (s.setDirtySlot n x).snapshotWrite = s.snapshotWrite := rfl
@[simp] theorem State.setDirtySlot_deferred (n : SlotId) (x : SlotDirty) : (s.setDirtySlot n x).deferred = s.deferred := rfl
@[simp] theorem State.setDirtySlot_locks (n : SlotId) (x : SlotDirty) : (s.setDirtySlot n x).locks = s.locks := rfl
@[simp] theorem State.setDirtySlot_lane (n : SlotId) (x : SlotDirty) : (s.setDirtySlot n x).lane = s.lane := rfl
@[simp] theorem State.setDirtySlot_compRings (n : SlotId) (x : SlotDirty) : (s.setDirtySlot n x).compRings = s.compRings := rfl
@[simp] theorem State.setDirtySlot_notices (n : SlotId) (x : SlotDirty) : (s.setDirtySlot n x).notices = s.notices := rfl
@[simp] theorem State.setDirtySlot_ringDirty (n : SlotId) (x : SlotDirty) : (s.setDirtySlot n x).ringDirty = s.ringDirty := rfl
@[simp] theorem State.setDirtySlot_vectorPending (n : SlotId) (x : SlotDirty) : (s.setDirtySlot n x).vectorPending = s.vectorPending := rfl
@[simp] theorem State.setDirtySlot_vectorMasked (n : SlotId) (x : SlotDirty) : (s.setDirtySlot n x).vectorMasked = s.vectorMasked := rfl
@[simp] theorem State.setDirtySlot_messagesSent (n : SlotId) (x : SlotDirty) : (s.setDirtySlot n x).messagesSent = s.messagesSent := rfl
@[simp] theorem State.setDirtySlot_freeCount (n : SlotId) (x : SlotDirty) : (s.setDirtySlot n x).freeCount = s.freeCount := rfl
@[simp] theorem State.setDirtySlot_halted (n : SlotId) (x : SlotDirty) : (s.setDirtySlot n x).halted = s.halted := rfl
@[simp] theorem State.setDirtySlot_slot (n : SlotId) (x : SlotDirty) (k : SlotId) : (s.setDirtySlot n x).slot k = s.slot k := rfl
@[simp] theorem State.setDirtySlot_engine (n : SlotId) (x : SlotDirty) (k : SlotId) : (s.setDirtySlot n x).engine k = s.engine k := rfl
@[simp] theorem State.setDirtySlot_ring (n : SlotId) (x : SlotDirty) (k : RingId) : (s.setDirtySlot n x).ring k = s.ring k := rfl
@[simp] theorem State.setDirtySlot_comp (n : SlotId) (x : SlotDirty) (k : CompRingId) : (s.setDirtySlot n x).comp k = s.comp k := rfl
@[simp] theorem State.setDirtySlot_waitOrder (n : SlotId) (x : SlotDirty) (k : SlotId) : (s.setDirtySlot n x).waitOrder k = s.waitOrder k := rfl
@[simp] theorem State.setDirtySlot_dirtyRing (n : SlotId) (x : SlotDirty) (k : RingId) : (s.setDirtySlot n x).dirtyRing k = s.dirtyRing k := rfl
@[simp] theorem State.setDirtySlot_vecPending (n : SlotId) (x : SlotDirty) (k : VectorId) : (s.setDirtySlot n x).vecPending k = s.vecPending k := rfl
@[simp] theorem State.setDirtySlot_vecMasked (n : SlotId) (x : SlotDirty) (k : VectorId) : (s.setDirtySlot n x).vecMasked k = s.vecMasked k := rfl
@[simp] theorem State.setDirtySlot_msgCount (n : SlotId) (x : SlotDirty) (k : VectorId) : (s.setDirtySlot n x).msgCount k = s.msgCount k := rfl

@[simp] theorem State.setDirtyRing_pending (r : RingId) (x : RingDirty) : (s.setDirtyRing r x).pending = s.pending := rfl
@[simp] theorem State.setDirtyRing_condition (r : RingId) (x : RingDirty) : (s.setDirtyRing r x).condition = s.condition := rfl
@[simp] theorem State.setDirtyRing_intEnable (r : RingId) (x : RingDirty) : (s.setDirtyRing r x).intEnable = s.intEnable := rfl
@[simp] theorem State.setDirtyRing_haltCause (r : RingId) (x : RingDirty) : (s.setDirtyRing r x).haltCause = s.haltCause := rfl
@[simp] theorem State.setDirtyRing_postError (r : RingId) (x : RingDirty) : (s.setDirtyRing r x).postError = s.postError := rfl
@[simp] theorem State.setDirtyRing_startLo (r : RingId) (x : RingDirty) : (s.setDirtyRing r x).startLo = s.startLo := rfl
@[simp] theorem State.setDirtyRing_startHi (r : RingId) (x : RingDirty) : (s.setDirtyRing r x).startHi = s.startHi := rfl
@[simp] theorem State.setDirtyRing_startCopy (r : RingId) (x : RingDirty) : (s.setDirtyRing r x).startCopy = s.startCopy := rfl
@[simp] theorem State.setDirtyRing_startRead (r : RingId) (x : RingDirty) : (s.setDirtyRing r x).startRead = s.startRead := rfl
@[simp] theorem State.setDirtyRing_startMoot (r : RingId) (x : RingDirty) : (s.setDirtyRing r x).startMoot = s.startMoot := rfl
@[simp] theorem State.setDirtyRing_laneFitted (r : RingId) (x : RingDirty) : (s.setDirtyRing r x).laneFitted = s.laneFitted := rfl
@[simp] theorem State.setDirtyRing_inReset (r : RingId) (x : RingDirty) : (s.setDirtyRing r x).inReset = s.inReset := rfl
@[simp] theorem State.setDirtyRing_readData (r : RingId) (x : RingDirty) : (s.setDirtyRing r x).readData = s.readData := rfl
@[simp] theorem State.setDirtyRing_slots (r : RingId) (x : RingDirty) : (s.setDirtyRing r x).slots = s.slots := rfl
@[simp] theorem State.setDirtyRing_engines (r : RingId) (x : RingDirty) : (s.setDirtyRing r x).engines = s.engines := rfl
@[simp] theorem State.setDirtyRing_rings (r : RingId) (x : RingDirty) : (s.setDirtyRing r x).rings = s.rings := rfl
@[simp] theorem State.setDirtyRing_roundRobin (r : RingId) (x : RingDirty) : (s.setDirtyRing r x).roundRobin = s.roundRobin := rfl
@[simp] theorem State.setDirtyRing_recordRead (r : RingId) (x : RingDirty) : (s.setDirtyRing r x).recordRead = s.recordRead := rfl
@[simp] theorem State.setDirtyRing_waitOrders (r : RingId) (x : RingDirty) : (s.setDirtyRing r x).waitOrders = s.waitOrders := rfl
@[simp] theorem State.setDirtyRing_control (r : RingId) (x : RingDirty) : (s.setDirtyRing r x).control = s.control := rfl
@[simp] theorem State.setDirtyRing_snapshotWrite (r : RingId) (x : RingDirty) : (s.setDirtyRing r x).snapshotWrite = s.snapshotWrite := rfl
@[simp] theorem State.setDirtyRing_deferred (r : RingId) (x : RingDirty) : (s.setDirtyRing r x).deferred = s.deferred := rfl
@[simp] theorem State.setDirtyRing_locks (r : RingId) (x : RingDirty) : (s.setDirtyRing r x).locks = s.locks := rfl
@[simp] theorem State.setDirtyRing_lane (r : RingId) (x : RingDirty) : (s.setDirtyRing r x).lane = s.lane := rfl
@[simp] theorem State.setDirtyRing_compRings (r : RingId) (x : RingDirty) : (s.setDirtyRing r x).compRings = s.compRings := rfl
@[simp] theorem State.setDirtyRing_notices (r : RingId) (x : RingDirty) : (s.setDirtyRing r x).notices = s.notices := rfl
@[simp] theorem State.setDirtyRing_slotDirty (r : RingId) (x : RingDirty) : (s.setDirtyRing r x).slotDirty = s.slotDirty := rfl
@[simp] theorem State.setDirtyRing_vectorPending (r : RingId) (x : RingDirty) : (s.setDirtyRing r x).vectorPending = s.vectorPending := rfl
@[simp] theorem State.setDirtyRing_vectorMasked (r : RingId) (x : RingDirty) : (s.setDirtyRing r x).vectorMasked = s.vectorMasked := rfl
@[simp] theorem State.setDirtyRing_messagesSent (r : RingId) (x : RingDirty) : (s.setDirtyRing r x).messagesSent = s.messagesSent := rfl
@[simp] theorem State.setDirtyRing_freeCount (r : RingId) (x : RingDirty) : (s.setDirtyRing r x).freeCount = s.freeCount := rfl
@[simp] theorem State.setDirtyRing_halted (r : RingId) (x : RingDirty) : (s.setDirtyRing r x).halted = s.halted := rfl
@[simp] theorem State.setDirtyRing_slot (r : RingId) (x : RingDirty) (k : SlotId) : (s.setDirtyRing r x).slot k = s.slot k := rfl
@[simp] theorem State.setDirtyRing_engine (r : RingId) (x : RingDirty) (k : SlotId) : (s.setDirtyRing r x).engine k = s.engine k := rfl
@[simp] theorem State.setDirtyRing_ring (r : RingId) (x : RingDirty) (k : RingId) : (s.setDirtyRing r x).ring k = s.ring k := rfl
@[simp] theorem State.setDirtyRing_comp (r : RingId) (x : RingDirty) (k : CompRingId) : (s.setDirtyRing r x).comp k = s.comp k := rfl
@[simp] theorem State.setDirtyRing_waitOrder (r : RingId) (x : RingDirty) (k : SlotId) : (s.setDirtyRing r x).waitOrder k = s.waitOrder k := rfl
@[simp] theorem State.setDirtyRing_dirtySlot (r : RingId) (x : RingDirty) (k : SlotId) : (s.setDirtyRing r x).dirtySlot k = s.dirtySlot k := rfl
@[simp] theorem State.setDirtyRing_vecPending (r : RingId) (x : RingDirty) (k : VectorId) : (s.setDirtyRing r x).vecPending k = s.vecPending k := rfl
@[simp] theorem State.setDirtyRing_vecMasked (r : RingId) (x : RingDirty) (k : VectorId) : (s.setDirtyRing r x).vecMasked k = s.vecMasked k := rfl
@[simp] theorem State.setDirtyRing_msgCount (r : RingId) (x : RingDirty) (k : VectorId) : (s.setDirtyRing r x).msgCount k = s.msgCount k := rfl

@[simp] theorem State.setVecPending_pending (v : VectorId) (x : Bool) : (s.setVecPending v x).pending = s.pending := rfl
@[simp] theorem State.setVecPending_condition (v : VectorId) (x : Bool) : (s.setVecPending v x).condition = s.condition := rfl
@[simp] theorem State.setVecPending_intEnable (v : VectorId) (x : Bool) : (s.setVecPending v x).intEnable = s.intEnable := rfl
@[simp] theorem State.setVecPending_haltCause (v : VectorId) (x : Bool) : (s.setVecPending v x).haltCause = s.haltCause := rfl
@[simp] theorem State.setVecPending_postError (v : VectorId) (x : Bool) : (s.setVecPending v x).postError = s.postError := rfl
@[simp] theorem State.setVecPending_startLo (v : VectorId) (x : Bool) : (s.setVecPending v x).startLo = s.startLo := rfl
@[simp] theorem State.setVecPending_startHi (v : VectorId) (x : Bool) : (s.setVecPending v x).startHi = s.startHi := rfl
@[simp] theorem State.setVecPending_startCopy (v : VectorId) (x : Bool) : (s.setVecPending v x).startCopy = s.startCopy := rfl
@[simp] theorem State.setVecPending_startRead (v : VectorId) (x : Bool) : (s.setVecPending v x).startRead = s.startRead := rfl
@[simp] theorem State.setVecPending_startMoot (v : VectorId) (x : Bool) : (s.setVecPending v x).startMoot = s.startMoot := rfl
@[simp] theorem State.setVecPending_laneFitted (v : VectorId) (x : Bool) : (s.setVecPending v x).laneFitted = s.laneFitted := rfl
@[simp] theorem State.setVecPending_inReset (v : VectorId) (x : Bool) : (s.setVecPending v x).inReset = s.inReset := rfl
@[simp] theorem State.setVecPending_readData (v : VectorId) (x : Bool) : (s.setVecPending v x).readData = s.readData := rfl
@[simp] theorem State.setVecPending_slots (v : VectorId) (x : Bool) : (s.setVecPending v x).slots = s.slots := rfl
@[simp] theorem State.setVecPending_engines (v : VectorId) (x : Bool) : (s.setVecPending v x).engines = s.engines := rfl
@[simp] theorem State.setVecPending_rings (v : VectorId) (x : Bool) : (s.setVecPending v x).rings = s.rings := rfl
@[simp] theorem State.setVecPending_roundRobin (v : VectorId) (x : Bool) : (s.setVecPending v x).roundRobin = s.roundRobin := rfl
@[simp] theorem State.setVecPending_recordRead (v : VectorId) (x : Bool) : (s.setVecPending v x).recordRead = s.recordRead := rfl
@[simp] theorem State.setVecPending_waitOrders (v : VectorId) (x : Bool) : (s.setVecPending v x).waitOrders = s.waitOrders := rfl
@[simp] theorem State.setVecPending_control (v : VectorId) (x : Bool) : (s.setVecPending v x).control = s.control := rfl
@[simp] theorem State.setVecPending_snapshotWrite (v : VectorId) (x : Bool) : (s.setVecPending v x).snapshotWrite = s.snapshotWrite := rfl
@[simp] theorem State.setVecPending_deferred (v : VectorId) (x : Bool) : (s.setVecPending v x).deferred = s.deferred := rfl
@[simp] theorem State.setVecPending_locks (v : VectorId) (x : Bool) : (s.setVecPending v x).locks = s.locks := rfl
@[simp] theorem State.setVecPending_lane (v : VectorId) (x : Bool) : (s.setVecPending v x).lane = s.lane := rfl
@[simp] theorem State.setVecPending_compRings (v : VectorId) (x : Bool) : (s.setVecPending v x).compRings = s.compRings := rfl
@[simp] theorem State.setVecPending_notices (v : VectorId) (x : Bool) : (s.setVecPending v x).notices = s.notices := rfl
@[simp] theorem State.setVecPending_slotDirty (v : VectorId) (x : Bool) : (s.setVecPending v x).slotDirty = s.slotDirty := rfl
@[simp] theorem State.setVecPending_ringDirty (v : VectorId) (x : Bool) : (s.setVecPending v x).ringDirty = s.ringDirty := rfl
@[simp] theorem State.setVecPending_vectorMasked (v : VectorId) (x : Bool) : (s.setVecPending v x).vectorMasked = s.vectorMasked := rfl
@[simp] theorem State.setVecPending_messagesSent (v : VectorId) (x : Bool) : (s.setVecPending v x).messagesSent = s.messagesSent := rfl
@[simp] theorem State.setVecPending_freeCount (v : VectorId) (x : Bool) : (s.setVecPending v x).freeCount = s.freeCount := rfl
@[simp] theorem State.setVecPending_halted (v : VectorId) (x : Bool) : (s.setVecPending v x).halted = s.halted := rfl
@[simp] theorem State.setVecPending_slot (v : VectorId) (x : Bool) (k : SlotId) : (s.setVecPending v x).slot k = s.slot k := rfl
@[simp] theorem State.setVecPending_engine (v : VectorId) (x : Bool) (k : SlotId) : (s.setVecPending v x).engine k = s.engine k := rfl
@[simp] theorem State.setVecPending_ring (v : VectorId) (x : Bool) (k : RingId) : (s.setVecPending v x).ring k = s.ring k := rfl
@[simp] theorem State.setVecPending_comp (v : VectorId) (x : Bool) (k : CompRingId) : (s.setVecPending v x).comp k = s.comp k := rfl
@[simp] theorem State.setVecPending_waitOrder (v : VectorId) (x : Bool) (k : SlotId) : (s.setVecPending v x).waitOrder k = s.waitOrder k := rfl
@[simp] theorem State.setVecPending_dirtySlot (v : VectorId) (x : Bool) (k : SlotId) : (s.setVecPending v x).dirtySlot k = s.dirtySlot k := rfl
@[simp] theorem State.setVecPending_dirtyRing (v : VectorId) (x : Bool) (k : RingId) : (s.setVecPending v x).dirtyRing k = s.dirtyRing k := rfl
@[simp] theorem State.setVecPending_vecMasked (v : VectorId) (x : Bool) (k : VectorId) : (s.setVecPending v x).vecMasked k = s.vecMasked k := rfl
@[simp] theorem State.setVecPending_msgCount (v : VectorId) (x : Bool) (k : VectorId) : (s.setVecPending v x).msgCount k = s.msgCount k := rfl

@[simp] theorem State.setVecMasked_pending (v : VectorId) (x : Bool) : (s.setVecMasked v x).pending = s.pending := rfl
@[simp] theorem State.setVecMasked_condition (v : VectorId) (x : Bool) : (s.setVecMasked v x).condition = s.condition := rfl
@[simp] theorem State.setVecMasked_intEnable (v : VectorId) (x : Bool) : (s.setVecMasked v x).intEnable = s.intEnable := rfl
@[simp] theorem State.setVecMasked_haltCause (v : VectorId) (x : Bool) : (s.setVecMasked v x).haltCause = s.haltCause := rfl
@[simp] theorem State.setVecMasked_postError (v : VectorId) (x : Bool) : (s.setVecMasked v x).postError = s.postError := rfl
@[simp] theorem State.setVecMasked_startLo (v : VectorId) (x : Bool) : (s.setVecMasked v x).startLo = s.startLo := rfl
@[simp] theorem State.setVecMasked_startHi (v : VectorId) (x : Bool) : (s.setVecMasked v x).startHi = s.startHi := rfl
@[simp] theorem State.setVecMasked_startCopy (v : VectorId) (x : Bool) : (s.setVecMasked v x).startCopy = s.startCopy := rfl
@[simp] theorem State.setVecMasked_startRead (v : VectorId) (x : Bool) : (s.setVecMasked v x).startRead = s.startRead := rfl
@[simp] theorem State.setVecMasked_startMoot (v : VectorId) (x : Bool) : (s.setVecMasked v x).startMoot = s.startMoot := rfl
@[simp] theorem State.setVecMasked_laneFitted (v : VectorId) (x : Bool) : (s.setVecMasked v x).laneFitted = s.laneFitted := rfl
@[simp] theorem State.setVecMasked_inReset (v : VectorId) (x : Bool) : (s.setVecMasked v x).inReset = s.inReset := rfl
@[simp] theorem State.setVecMasked_readData (v : VectorId) (x : Bool) : (s.setVecMasked v x).readData = s.readData := rfl
@[simp] theorem State.setVecMasked_slots (v : VectorId) (x : Bool) : (s.setVecMasked v x).slots = s.slots := rfl
@[simp] theorem State.setVecMasked_engines (v : VectorId) (x : Bool) : (s.setVecMasked v x).engines = s.engines := rfl
@[simp] theorem State.setVecMasked_rings (v : VectorId) (x : Bool) : (s.setVecMasked v x).rings = s.rings := rfl
@[simp] theorem State.setVecMasked_roundRobin (v : VectorId) (x : Bool) : (s.setVecMasked v x).roundRobin = s.roundRobin := rfl
@[simp] theorem State.setVecMasked_recordRead (v : VectorId) (x : Bool) : (s.setVecMasked v x).recordRead = s.recordRead := rfl
@[simp] theorem State.setVecMasked_waitOrders (v : VectorId) (x : Bool) : (s.setVecMasked v x).waitOrders = s.waitOrders := rfl
@[simp] theorem State.setVecMasked_control (v : VectorId) (x : Bool) : (s.setVecMasked v x).control = s.control := rfl
@[simp] theorem State.setVecMasked_snapshotWrite (v : VectorId) (x : Bool) : (s.setVecMasked v x).snapshotWrite = s.snapshotWrite := rfl
@[simp] theorem State.setVecMasked_deferred (v : VectorId) (x : Bool) : (s.setVecMasked v x).deferred = s.deferred := rfl
@[simp] theorem State.setVecMasked_locks (v : VectorId) (x : Bool) : (s.setVecMasked v x).locks = s.locks := rfl
@[simp] theorem State.setVecMasked_lane (v : VectorId) (x : Bool) : (s.setVecMasked v x).lane = s.lane := rfl
@[simp] theorem State.setVecMasked_compRings (v : VectorId) (x : Bool) : (s.setVecMasked v x).compRings = s.compRings := rfl
@[simp] theorem State.setVecMasked_notices (v : VectorId) (x : Bool) : (s.setVecMasked v x).notices = s.notices := rfl
@[simp] theorem State.setVecMasked_slotDirty (v : VectorId) (x : Bool) : (s.setVecMasked v x).slotDirty = s.slotDirty := rfl
@[simp] theorem State.setVecMasked_ringDirty (v : VectorId) (x : Bool) : (s.setVecMasked v x).ringDirty = s.ringDirty := rfl
@[simp] theorem State.setVecMasked_vectorPending (v : VectorId) (x : Bool) : (s.setVecMasked v x).vectorPending = s.vectorPending := rfl
@[simp] theorem State.setVecMasked_messagesSent (v : VectorId) (x : Bool) : (s.setVecMasked v x).messagesSent = s.messagesSent := rfl
@[simp] theorem State.setVecMasked_freeCount (v : VectorId) (x : Bool) : (s.setVecMasked v x).freeCount = s.freeCount := rfl
@[simp] theorem State.setVecMasked_halted (v : VectorId) (x : Bool) : (s.setVecMasked v x).halted = s.halted := rfl
@[simp] theorem State.setVecMasked_slot (v : VectorId) (x : Bool) (k : SlotId) : (s.setVecMasked v x).slot k = s.slot k := rfl
@[simp] theorem State.setVecMasked_engine (v : VectorId) (x : Bool) (k : SlotId) : (s.setVecMasked v x).engine k = s.engine k := rfl
@[simp] theorem State.setVecMasked_ring (v : VectorId) (x : Bool) (k : RingId) : (s.setVecMasked v x).ring k = s.ring k := rfl
@[simp] theorem State.setVecMasked_comp (v : VectorId) (x : Bool) (k : CompRingId) : (s.setVecMasked v x).comp k = s.comp k := rfl
@[simp] theorem State.setVecMasked_waitOrder (v : VectorId) (x : Bool) (k : SlotId) : (s.setVecMasked v x).waitOrder k = s.waitOrder k := rfl
@[simp] theorem State.setVecMasked_dirtySlot (v : VectorId) (x : Bool) (k : SlotId) : (s.setVecMasked v x).dirtySlot k = s.dirtySlot k := rfl
@[simp] theorem State.setVecMasked_dirtyRing (v : VectorId) (x : Bool) (k : RingId) : (s.setVecMasked v x).dirtyRing k = s.dirtyRing k := rfl
@[simp] theorem State.setVecMasked_vecPending (v : VectorId) (x : Bool) (k : VectorId) : (s.setVecMasked v x).vecPending k = s.vecPending k := rfl
@[simp] theorem State.setVecMasked_msgCount (v : VectorId) (x : Bool) (k : VectorId) : (s.setVecMasked v x).msgCount k = s.msgCount k := rfl

@[simp] theorem State.modLane_pending (f : Lane → Lane) : (s.modLane f).pending = s.pending := rfl
@[simp] theorem State.modLane_condition (f : Lane → Lane) : (s.modLane f).condition = s.condition := rfl
@[simp] theorem State.modLane_intEnable (f : Lane → Lane) : (s.modLane f).intEnable = s.intEnable := rfl
@[simp] theorem State.modLane_haltCause (f : Lane → Lane) : (s.modLane f).haltCause = s.haltCause := rfl
@[simp] theorem State.modLane_postError (f : Lane → Lane) : (s.modLane f).postError = s.postError := rfl
@[simp] theorem State.modLane_startLo (f : Lane → Lane) : (s.modLane f).startLo = s.startLo := rfl
@[simp] theorem State.modLane_startHi (f : Lane → Lane) : (s.modLane f).startHi = s.startHi := rfl
@[simp] theorem State.modLane_startCopy (f : Lane → Lane) : (s.modLane f).startCopy = s.startCopy := rfl
@[simp] theorem State.modLane_startRead (f : Lane → Lane) : (s.modLane f).startRead = s.startRead := rfl
@[simp] theorem State.modLane_startMoot (f : Lane → Lane) : (s.modLane f).startMoot = s.startMoot := rfl
@[simp] theorem State.modLane_laneFitted (f : Lane → Lane) : (s.modLane f).laneFitted = s.laneFitted := rfl
@[simp] theorem State.modLane_inReset (f : Lane → Lane) : (s.modLane f).inReset = s.inReset := rfl
@[simp] theorem State.modLane_readData (f : Lane → Lane) : (s.modLane f).readData = s.readData := rfl
@[simp] theorem State.modLane_slots (f : Lane → Lane) : (s.modLane f).slots = s.slots := rfl
@[simp] theorem State.modLane_engines (f : Lane → Lane) : (s.modLane f).engines = s.engines := rfl
@[simp] theorem State.modLane_rings (f : Lane → Lane) : (s.modLane f).rings = s.rings := rfl
@[simp] theorem State.modLane_roundRobin (f : Lane → Lane) : (s.modLane f).roundRobin = s.roundRobin := rfl
@[simp] theorem State.modLane_recordRead (f : Lane → Lane) : (s.modLane f).recordRead = s.recordRead := rfl
@[simp] theorem State.modLane_waitOrders (f : Lane → Lane) : (s.modLane f).waitOrders = s.waitOrders := rfl
@[simp] theorem State.modLane_control (f : Lane → Lane) : (s.modLane f).control = s.control := rfl
@[simp] theorem State.modLane_snapshotWrite (f : Lane → Lane) : (s.modLane f).snapshotWrite = s.snapshotWrite := rfl
@[simp] theorem State.modLane_deferred (f : Lane → Lane) : (s.modLane f).deferred = s.deferred := rfl
@[simp] theorem State.modLane_locks (f : Lane → Lane) : (s.modLane f).locks = s.locks := rfl
@[simp] theorem State.modLane_lane (f : Lane → Lane) : (s.modLane f).lane = f s.lane := rfl
@[simp] theorem State.modLane_compRings (f : Lane → Lane) : (s.modLane f).compRings = s.compRings := rfl
@[simp] theorem State.modLane_notices (f : Lane → Lane) : (s.modLane f).notices = s.notices := rfl
@[simp] theorem State.modLane_slotDirty (f : Lane → Lane) : (s.modLane f).slotDirty = s.slotDirty := rfl
@[simp] theorem State.modLane_ringDirty (f : Lane → Lane) : (s.modLane f).ringDirty = s.ringDirty := rfl
@[simp] theorem State.modLane_vectorPending (f : Lane → Lane) : (s.modLane f).vectorPending = s.vectorPending := rfl
@[simp] theorem State.modLane_vectorMasked (f : Lane → Lane) : (s.modLane f).vectorMasked = s.vectorMasked := rfl
@[simp] theorem State.modLane_messagesSent (f : Lane → Lane) : (s.modLane f).messagesSent = s.messagesSent := rfl
@[simp] theorem State.modLane_freeCount (f : Lane → Lane) : (s.modLane f).freeCount = s.freeCount := rfl
@[simp] theorem State.modLane_halted (f : Lane → Lane) : (s.modLane f).halted = s.halted := rfl
@[simp] theorem State.modLane_slot (f : Lane → Lane) (k : SlotId) : (s.modLane f).slot k = s.slot k := rfl
@[simp] theorem State.modLane_engine (f : Lane → Lane) (k : SlotId) : (s.modLane f).engine k = s.engine k := rfl
@[simp] theorem State.modLane_ring (f : Lane → Lane) (k : RingId) : (s.modLane f).ring k = s.ring k := rfl
@[simp] theorem State.modLane_comp (f : Lane → Lane) (k : CompRingId) : (s.modLane f).comp k = s.comp k := rfl
@[simp] theorem State.modLane_waitOrder (f : Lane → Lane) (k : SlotId) : (s.modLane f).waitOrder k = s.waitOrder k := rfl
@[simp] theorem State.modLane_dirtySlot (f : Lane → Lane) (k : SlotId) : (s.modLane f).dirtySlot k = s.dirtySlot k := rfl
@[simp] theorem State.modLane_dirtyRing (f : Lane → Lane) (k : RingId) : (s.modLane f).dirtyRing k = s.dirtyRing k := rfl
@[simp] theorem State.modLane_vecPending (f : Lane → Lane) (k : VectorId) : (s.modLane f).vecPending k = s.vecPending k := rfl
@[simp] theorem State.modLane_vecMasked (f : Lane → Lane) (k : VectorId) : (s.modLane f).vecMasked k = s.vecMasked k := rfl
@[simp] theorem State.modLane_msgCount (f : Lane → Lane) (k : VectorId) : (s.modLane f).msgCount k = s.msgCount k := rfl

@[simp] theorem State.setSlot_slot_same (k : SlotId) (x : Slot) : (s.setSlot k x).slot k = x := by
  simp [State.setSlot, State.slot]

theorem State.setSlot_slot_ne (k j : SlotId) (x : Slot) (h : j ≠ k) : (s.setSlot k x).slot j = s.slot j := by
  have h2 : k.val ≠ j.val := fun e => h (Fin.ext e.symm)
  simp [State.setSlot, State.slot, Vector.getElem_set_ne _ _ h2]

theorem State.setSlot_slot (k j : SlotId) (x : Slot) :
    (s.setSlot k x).slot j = if j = k then x else s.slot j := by
  by_cases h : j = k
  · subst h; simp
  · simp [h, State.setSlot_slot_ne s k j x h]

@[simp] theorem State.setEngine_engine_same (k : SlotId) (x : Engine) : (s.setEngine k x).engine k = x := by
  simp [State.setEngine, State.engine]

theorem State.setEngine_engine_ne (k j : SlotId) (x : Engine) (h : j ≠ k) : (s.setEngine k x).engine j = s.engine j := by
  have h2 : k.val ≠ j.val := fun e => h (Fin.ext e.symm)
  simp [State.setEngine, State.engine, Vector.getElem_set_ne _ _ h2]

theorem State.setEngine_engine (k j : SlotId) (x : Engine) :
    (s.setEngine k x).engine j = if j = k then x else s.engine j := by
  by_cases h : j = k
  · subst h; simp
  · simp [h, State.setEngine_engine_ne s k j x h]

@[simp] theorem State.setRing_ring_same (k : RingId) (x : RequestRing) : (s.setRing k x).ring k = x := by
  simp [State.setRing, State.ring]

theorem State.setRing_ring_ne (k j : RingId) (x : RequestRing) (h : j ≠ k) : (s.setRing k x).ring j = s.ring j := by
  have h2 : k.val ≠ j.val := fun e => h (Fin.ext e.symm)
  simp [State.setRing, State.ring, Vector.getElem_set_ne _ _ h2]

theorem State.setRing_ring (k j : RingId) (x : RequestRing) :
    (s.setRing k x).ring j = if j = k then x else s.ring j := by
  by_cases h : j = k
  · subst h; simp
  · simp [h, State.setRing_ring_ne s k j x h]

@[simp] theorem State.setComp_comp_same (k : CompRingId) (x : CompletionRing) : (s.setComp k x).comp k = x := by
  simp [State.setComp, State.comp]

theorem State.setComp_comp_ne (k j : CompRingId) (x : CompletionRing) (h : j ≠ k) : (s.setComp k x).comp j = s.comp j := by
  have h2 : k.val ≠ j.val := fun e => h (Fin.ext e.symm)
  simp [State.setComp, State.comp, Vector.getElem_set_ne _ _ h2]

theorem State.setComp_comp (k j : CompRingId) (x : CompletionRing) :
    (s.setComp k x).comp j = if j = k then x else s.comp j := by
  by_cases h : j = k
  · subst h; simp
  · simp [h, State.setComp_comp_ne s k j x h]

@[simp] theorem State.setWaitOrder_waitOrder_same (k : SlotId) (x : List RingId) : (s.setWaitOrder k x).waitOrder k = x := by
  simp [State.setWaitOrder, State.waitOrder]

theorem State.setWaitOrder_waitOrder_ne (k j : SlotId) (x : List RingId) (h : j ≠ k) : (s.setWaitOrder k x).waitOrder j = s.waitOrder j := by
  have h2 : k.val ≠ j.val := fun e => h (Fin.ext e.symm)
  simp [State.setWaitOrder, State.waitOrder, Vector.getElem_set_ne _ _ h2]

theorem State.setWaitOrder_waitOrder (k j : SlotId) (x : List RingId) :
    (s.setWaitOrder k x).waitOrder j = if j = k then x else s.waitOrder j := by
  by_cases h : j = k
  · subst h; simp
  · simp [h, State.setWaitOrder_waitOrder_ne s k j x h]

@[simp] theorem State.setDirtySlot_dirtySlot_same (k : SlotId) (x : SlotDirty) : (s.setDirtySlot k x).dirtySlot k = x := by
  simp [State.setDirtySlot, State.dirtySlot]

theorem State.setDirtySlot_dirtySlot_ne (k j : SlotId) (x : SlotDirty) (h : j ≠ k) : (s.setDirtySlot k x).dirtySlot j = s.dirtySlot j := by
  have h2 : k.val ≠ j.val := fun e => h (Fin.ext e.symm)
  simp [State.setDirtySlot, State.dirtySlot, Vector.getElem_set_ne _ _ h2]

theorem State.setDirtySlot_dirtySlot (k j : SlotId) (x : SlotDirty) :
    (s.setDirtySlot k x).dirtySlot j = if j = k then x else s.dirtySlot j := by
  by_cases h : j = k
  · subst h; simp
  · simp [h, State.setDirtySlot_dirtySlot_ne s k j x h]

@[simp] theorem State.setDirtyRing_dirtyRing_same (k : RingId) (x : RingDirty) : (s.setDirtyRing k x).dirtyRing k = x := by
  simp [State.setDirtyRing, State.dirtyRing]

theorem State.setDirtyRing_dirtyRing_ne (k j : RingId) (x : RingDirty) (h : j ≠ k) : (s.setDirtyRing k x).dirtyRing j = s.dirtyRing j := by
  have h2 : k.val ≠ j.val := fun e => h (Fin.ext e.symm)
  simp [State.setDirtyRing, State.dirtyRing, Vector.getElem_set_ne _ _ h2]

theorem State.setDirtyRing_dirtyRing (k j : RingId) (x : RingDirty) :
    (s.setDirtyRing k x).dirtyRing j = if j = k then x else s.dirtyRing j := by
  by_cases h : j = k
  · subst h; simp
  · simp [h, State.setDirtyRing_dirtyRing_ne s k j x h]

@[simp] theorem State.setVecPending_vecPending_same (k : VectorId) (x : Bool) : (s.setVecPending k x).vecPending k = x := by
  simp [State.setVecPending, State.vecPending]

theorem State.setVecPending_vecPending_ne (k j : VectorId) (x : Bool) (h : j ≠ k) : (s.setVecPending k x).vecPending j = s.vecPending j := by
  have h2 : k.val ≠ j.val := fun e => h (Fin.ext e.symm)
  simp [State.setVecPending, State.vecPending, Vector.getElem_set_ne _ _ h2]

theorem State.setVecPending_vecPending (k j : VectorId) (x : Bool) :
    (s.setVecPending k x).vecPending j = if j = k then x else s.vecPending j := by
  by_cases h : j = k
  · subst h; simp
  · simp [h, State.setVecPending_vecPending_ne s k j x h]

@[simp] theorem State.setVecMasked_vecMasked_same (k : VectorId) (x : Bool) : (s.setVecMasked k x).vecMasked k = x := by
  simp [State.setVecMasked, State.vecMasked]

theorem State.setVecMasked_vecMasked_ne (k j : VectorId) (x : Bool) (h : j ≠ k) : (s.setVecMasked k x).vecMasked j = s.vecMasked j := by
  have h2 : k.val ≠ j.val := fun e => h (Fin.ext e.symm)
  simp [State.setVecMasked, State.vecMasked, Vector.getElem_set_ne _ _ h2]

theorem State.setVecMasked_vecMasked (k j : VectorId) (x : Bool) :
    (s.setVecMasked k x).vecMasked j = if j = k then x else s.vecMasked j := by
  by_cases h : j = k
  · subst h; simp
  · simp [h, State.setVecMasked_vecMasked_ne s k j x h]

@[simp] theorem State.setSlot_setSlot (k : SlotId) (x y : Slot) : (s.setSlot k x).setSlot k y = s.setSlot k y := by
  simp [State.setSlot]

@[simp] theorem State.setSlot_self (k : SlotId) : s.setSlot k (s.slot k) = s := by
  simp [State.setSlot, State.slot]

@[simp] theorem State.setEngine_setEngine (k : SlotId) (x y : Engine) : (s.setEngine k x).setEngine k y = s.setEngine k y := by
  simp [State.setEngine]

@[simp] theorem State.setEngine_self (k : SlotId) : s.setEngine k (s.engine k) = s := by
  simp [State.setEngine, State.engine]

@[simp] theorem State.setRing_setRing (k : RingId) (x y : RequestRing) : (s.setRing k x).setRing k y = s.setRing k y := by
  simp [State.setRing]

@[simp] theorem State.setRing_self (k : RingId) : s.setRing k (s.ring k) = s := by
  simp [State.setRing, State.ring]

@[simp] theorem State.setComp_setComp (k : CompRingId) (x y : CompletionRing) : (s.setComp k x).setComp k y = s.setComp k y := by
  simp [State.setComp]

@[simp] theorem State.setComp_self (k : CompRingId) : s.setComp k (s.comp k) = s := by
  simp [State.setComp, State.comp]

end Sys2Proof.Machine
end

