-- ==== Sys2Proof/Laws/Bus.lean ====
section
/-! SUPPORT. What the slot bus engine's shared operations can do (R30, R42, R47, R50, R51, R57). -/

namespace Sys2Proof.Machine

/-! ### The engine after its endings -/

@[simp] theorem Engine.workless_phase (e : Engine) : e.workless.phase = e.phase := rfl
@[simp] theorem Engine.workless_exec (e : Engine) : e.workless.exec = none := rfl
@[simp] theorem Engine.workless_descRead (e : Engine) : e.workless.descRead = none := rfl
@[simp] theorem Engine.workless_closing (e : Engine) : e.workless.closing = false := rfl
@[simp] theorem Engine.workless_closeFill (e : Engine) : e.workless.closeFill = none := rfl
@[simp] theorem Engine.workless_piece (e : Engine) : e.workless.piece = e.piece := rfl
@[simp] theorem Engine.workless_buffer (e : Engine) : e.workless.buffer = e.buffer := rfl
@[simp] theorem Engine.workless_pendingList (e : Engine) : e.workless.pendingList = e.pendingList := rfl
@[simp] theorem Engine.workless_heldOver (e : Engine) : e.workless.heldOver = e.heldOver := rfl
@[simp] theorem Engine.workless_hostTransfer (e : Engine) : e.workless.hostTransfer = e.hostTransfer := rfl

/-! ### The data buffer -/

@[simp] theorem State.fillBuffer_slot (s : State) (n m : SlotId) (pos : Nat) (bytes : List Byte) :
    (s.fillBuffer n pos bytes).slot m = s.slot m := rfl

@[simp] theorem State.fillBuffer_engine (s : State) (n m : SlotId) (pos : Nat) (bytes : List Byte) :
    (s.fillBuffer n pos bytes).engine m = if m = n then
      { s.engine n with buffer := Buffer.writeAll (s.engine n).buffer pos bytes } else s.engine m := by
  simp [State.fillBuffer, State.setEngine_engine]

theorem State.fillBuffer_frame (s : State) (n : SlotId) (pos : Nat) (bytes : List Byte) :
    ∃ x, s.fillBuffer n pos bytes = { s with engines := x } := ⟨_, rfl⟩

/-- Received bytes inside the buffer keep its canonical form. -/
theorem State.fillBuffer_wf (s : State) (n : SlotId) (pos : Nat) (bytes : List Byte)
    (h : ∀ m, Buffer.wf (s.engine m).buffer = true) (hb : pos + bytes.length ≤ 2048) (m : SlotId) :
    Buffer.wf ((s.fillBuffer n pos bytes).engine m).buffer = true := by
  rw [State.fillBuffer_engine]
  split
  · exact Buffer.writeAll_wf _ _ _ hb (h n)
  · exact h m

/-! ### Bytes of an open read -/

/-- The module is sending read data once its first byte has come (R40). -/
theorem Engine.tick_reading (e : Engine) (h : e.reading = true) : e.tick = { e with phase := .receiving } := by
  unfold Engine.reading at h
  simp only [Bool.and_eq_true, Bool.or_eq_true, beq_iff_eq, Option.isNone_iff_eq_none] at h
  obtain ⟨h | h, hp⟩ := h <;> cases e <;> simp_all [Engine.tick]

@[simp] theorem Engine.tick_buffer (e : Engine) : e.tick.buffer = e.buffer := by
  unfold Engine.tick; split <;> rfl

/-- All that an arrival of bytes can do (R47, log entry 38): nothing where none came, else they are placed where the
read stores bytes, and the transaction goes on. -/
theorem State.receiveBytes_cases (s t : State) (n : SlotId) (bytes : List Byte)
    (h : s.receiveBytes n bytes = .next t) :
    (bytes = [] ∧ t = s)
      ∨ (bytes ≠ [] ∧ ∃ pos count, (s.engine n).readFill = some (pos, count)
        ∧ pos + bytes.length ≤ 2048 ∧ t = (s.fillBuffer n pos bytes).modEngine n Engine.tick)
      ∨ (bytes ≠ [] ∧ (s.engine n).readFill = none ∧ t = s.modEngine n Engine.tick) := by
  unfold State.receiveBytes at h
  split at h
  · cases h; exact .inl ⟨‹_›, rfl⟩
  · split at h
    · split at h
      · cases h
      · cases h; exact .inr (.inl ⟨‹_›, _, _, ‹_›, Nat.le_of_not_lt ‹_›, rfl⟩)
    · cases h; exact .inr (.inr ⟨‹_›, ‹_›, rfl⟩)

/-- An arrival of bytes changes the engines alone. -/
theorem State.receiveBytes_frame (s t : State) (n : SlotId) (bytes : List Byte)
    (h : s.receiveBytes n bytes = .next t) : ∃ x, t = { s with engines := x } := by
  obtain ⟨-, rfl⟩ | ⟨-, _, _, -, -, rfl⟩ | ⟨-, -, rfl⟩ := State.receiveBytes_cases s t n bytes h
  · exact ⟨t.engines, rfl⟩
  · exact ⟨_, rfl⟩
  · exact ⟨_, rfl⟩

/-! ### Between the pieces of a WRITE -/

/-- What it means to stand between two pieces (R30). -/
theorem Engine.betweenPieces_eq_some (e : Engine) (x : Execution) :
    e.betweenPieces = some x ↔ e.exec = some x ∧ x.stage = .pieces ∧ e.phase = .idle ∧ e.piece = none
      ∧ x.next < x.entry.stop := by
  unfold Engine.betweenPieces
  split <;> rename_i h
  · split <;> rename_i g <;> simp_all <;> grind
  · simp [h]

/-- The engines that do not stand there: a bus at work, or a current piece. -/
theorem Engine.betweenPieces_busy (e : Engine) (h : e.phase ≠ .idle ∨ e.piece ≠ none) :
    e.betweenPieces = none := by
  rw [Option.eq_none_iff_forall_not_mem]
  intro x hx
  obtain ⟨-, -, h1, h2, -⟩ := (Engine.betweenPieces_eq_some e x).mp hx
  exact h.elim (· h1) (· h2)

/-- The START of the next piece does nothing else than open that piece of an unmarked WRITE (R49, R57). -/
theorem State.startPiece_cases (s : State) (n : SlotId) :
    (s.startPiece n = s
        ∧ ∀ x, (s.engine n).betweenPieces = some x → x.abortMark = true)
      ∨ ∃ x, (s.engine n).betweenPieces = some x ∧ x.abortMark = false
        ∧ s.startPiece n = s.openPiece n x.entry.address (pieceAt x.seen.pageSize x.next x.entry.stop) 1 := by
  unfold State.startPiece
  split <;> rename_i h
  · rename_i x
    by_cases hm : x.abortMark = true
    · exact .inl ⟨if_pos hm, fun y hy => by rw [h] at hy; cases hy; exact hm⟩
    · exact .inr ⟨x, h, by simpa using hm, if_neg hm⟩
  · exact .inl ⟨rfl, fun y hy => by rw [h] at hy; cases hy⟩

theorem State.startPiece_frame (s : State) (n : SlotId) :
    ∃ x, s.startPiece n = { s with engines := x } := by
  obtain ⟨h, -⟩ | ⟨x, -, -, h⟩ := State.startPiece_cases s n
  · exact ⟨s.engines, h⟩
  · exact ⟨_, h⟩

/-- A tick of one slot changes its engine alone (log entry 2). -/
theorem State.tickSlot_frame (s : State) (n : SlotId) : ∃ x, s.tickSlot n = { s with engines := x } := by
  unfold State.tickSlot
  split
  · exact State.startPiece_frame s n
  · exact ⟨_, rfl⟩

/-- A tick changes the engines alone (log entry 2). -/
theorem State.tick_frame (s : State) : ∃ x, s.tick = { s with engines := x } := by
  unfold State.tick
  suffices ∀ (l : List SlotId) (t : State), (∃ x, t = { s with engines := x }) →
      ∃ x, l.foldl State.tickSlot t = { s with engines := x } from this _ s ⟨s.engines, rfl⟩
  intro l
  induction l with
  | nil => exact fun t h => h
  | cons n l ih =>
    rintro t ⟨x, rfl⟩
    obtain ⟨y, hy⟩ := State.tickSlot_frame { s with engines := x } n
    exact ih _ ⟨y, hy⟩

end Sys2Proof.Machine
end

