-- ==== Sys2Proof/Laws/Poster.lean ====
section
/-! SUPPORT. What the poster's shared operations can do: each changes the named parts of the state and nothing
else. -/

namespace Sys2Proof.Machine

/-! ### Vectors -/

theorem State.deliver_frame (s : State) (v : VectorId) :
    ∃ p m, s.deliver v = { s with vectorPending := p, messagesSent := m } := by
  unfold State.deliver
  split
  · exact ⟨_, _, rfl⟩
  · exact ⟨s.vectorPending, s.messagesSent, rfl⟩

theorem State.raise_frame (s : State) (v : VectorId) :
    ∃ p m, s.raise v = { s with vectorPending := p, messagesSent := m } := by
  obtain ⟨p, m, h⟩ := State.deliver_frame (s.setVecPending v true) v
  exact ⟨p, m, h⟩

theorem State.raiseOpt_frame (s : State) (v : Option VectorId) :
    ∃ p m, s.raiseOpt v = { s with vectorPending := p, messagesSent := m } := by
  cases v with
  | none => exact ⟨_, _, rfl⟩
  | some v => exact State.raise_frame s v

theorem State.deliverAll_frame (s : State) :
    ∃ p m, s.deliverAll = { s with vectorPending := p, messagesSent := m } := by
  suffices h : ∀ (l : List VectorId) (s : State),
      ∃ p m, l.foldl State.deliver s = { s with vectorPending := p, messagesSent := m } from h _ s
  intro l
  induction l with
  | nil => exact fun s => ⟨_, _, rfl⟩
  | cons v l ih =>
    intro s
    obtain ⟨p, m, h⟩ := State.deliver_frame s v
    obtain ⟨p', m', h'⟩ := ih (s.deliver v)
    exact ⟨p', m', by rw [List.foldl_cons, h', h]⟩

/-! ### Completions -/

theorem State.issueCompletion_frame (s : State) (c : CompRingId) :
    ∃ x, s.issueCompletion c = { s with compRings := x } := by
  unfold State.issueCompletion
  dsimp only
  split
  · exact ⟨s.compRings, rfl⟩
  · split
    · exact ⟨_, rfl⟩
    · exact ⟨s.compRings, rfl⟩

theorem State.handOver_frame (s : State) (r : Completion) :
    ∃ x, s.handOver r = { s with compRings := x } := by
  unfold State.handOver
  split
  · exact ⟨s.compRings, rfl⟩
  · split
    · exact ⟨s.compRings, rfl⟩
    · obtain ⟨x, h⟩ := State.issueCompletion_frame
        (s.modComp _ fun x => { x with queue := x.queue ++ [r] }) _
      exact ⟨x, h⟩

theorem State.handAll_frame (s : State) (rs : List Completion) :
    ∃ x, s.handAll rs = { s with compRings := x } := by
  unfold State.handAll
  induction rs generalizing s with
  | nil => exact ⟨s.compRings, rfl⟩
  | cons r rs ih =>
    obtain ⟨x, h⟩ := State.handOver_frame s r
    obtain ⟨y, h'⟩ := ih (s.handOver r)
    exact ⟨y, by rw [List.foldl_cons, h', h]⟩

theorem State.handMerged_frame (s : State) (gs : List (List Completion)) :
    ∃ x k, s.handMerged gs = { s with compRings := x, freeCount := k } := by
  unfold State.handMerged
  dsimp only
  obtain ⟨x, h⟩ := State.handAll_frame
    { s with freeCount := (freeMerge (gs.flatten.length + 1) s.freeCount gs).2 }
    (freeMerge (gs.flatten.length + 1) s.freeCount gs).1
  exact ⟨x, _, h⟩

theorem State.returnReservation_frame (s : State) (r : RingId) :
    ∃ x, s.returnReservation r = { s with compRings := x } := by
  unfold State.returnReservation
  split
  · exact ⟨s.compRings, rfl⟩
  · exact ⟨_, rfl⟩

/-- Issuing a write moves a result from the queue to the write: the results stay what they are. -/
theorem State.issueCompletion_results (s : State) (c d : CompRingId) :
    ((s.issueCompletion c).comp d).results = (s.comp d).results := by
  unfold State.issueCompletion
  dsimp only
  split
  · rfl
  · split
    · rename_i r rest hw hq
      rw [State.setComp_comp]
      split
      · rename_i hd; subst hd
        simp [CompletionRing.results, hw, hq]
      · rfl
    · rfl

/-- One result handed over goes to the end of the results of the ring it is bound to (R94), unless the device
is halted (R99). -/
theorem State.handOver_results (s : State) (r : Completion) (c : CompRingId) :
    ((s.handOver r).comp c).results = (s.comp c).results ++ s.goingTo c [r] := by
  unfold State.handOver State.goingTo
  split
  · simp
  · split
    · rename_i hb; simp [hb]
    · rename_i d hb
      rw [State.issueCompletion_results, State.modComp_eq, State.setComp_comp]
      split
      · rename_i hd; subst hd
        simp [CompletionRing.results, hb]
      · rename_i hd
        simp [hb, Ne.symm hd]

theorem State.goingTo_cons (s : State) (c : CompRingId) (r : Completion) (rs : List Completion) :
    s.goingTo c (r :: rs) = s.goingTo c [r] ++ s.goingTo c rs := by
  unfold State.goingTo
  split
  · rfl
  · simp only [List.filter_cons, List.filter_nil]
    split <;> rfl

theorem State.goingTo_congr (s t : State) (c : CompRingId) (rs : List Completion)
    (hh : t.halted = s.halted) (hb : ∀ r, (t.ring r).bound = (s.ring r).bound) :
    t.goingTo c rs = s.goingTo c rs := by
  unfold State.goingTo
  simp [hh, hb]

/-- Results handed over one after another stand in that order. -/
theorem State.handAll_handed (s : State) (rs : List Completion) : s.handed (s.handAll rs) rs := by
  intro c
  unfold State.handAll
  induction rs generalizing s with
  | nil => simp [State.goingTo]
  | cons r rs ih =>
    obtain ⟨x, h⟩ := State.handOver_frame s r
    rw [List.foldl_cons, ih, State.handOver_results, State.goingTo_cons s c r rs,
      State.goingTo_congr s (s.handOver r) c rs (by rw [h]; rfl) (fun q => by rw [h]; rfl),
      List.append_assoc]

theorem State.handOver_handed (s : State) (r : Completion) : s.handed (s.handOver r) [r] :=
  fun c => State.handOver_results s r c

/-! ### What is written -/

theorem State.issueCompletion_comp_ne (s : State) (c d : CompRingId) (h : d ≠ c) :
    (s.issueCompletion c).comp d = s.comp d := by
  unfold State.issueCompletion
  dsimp only
  split
  · rfl
  · split
    · rw [State.setComp_comp, if_neg h]
    · rfl

/-- Issuing leaves the ring posting, when it was, or when its last write has just ended (R94). -/
theorem State.issueCompletion_posting (s : State) (c : CompRingId) (hh : s.halted = false)
    (ha : (s.comp c).active = true) (hp : (s.comp c).writing = none ∨ (s.comp c).Posting) :
    ((s.issueCompletion c).comp c).Posting := by
  unfold State.issueCompletion
  simp only [hh, Bool.false_eq_true, if_false]
  split
  · rw [State.setComp_comp, if_pos rfl]
    exact fun _ => ⟨ha, rfl, rfl⟩
  · rename_i hn
    obtain hw | hp := hp
    · unfold CompletionRing.Posting
      rw [hw]
      cases hq : (s.comp c).queue with
      | nil => rfl
      | cons r rest => exact absurd hq (hn r rest hw)
    · exact hp

/-- A result handed over leaves every ring posting: it is written at once, or waits behind a write (R94). -/
theorem State.handOver_posting (s : State) (r : Completion) (hh : s.halted = false)
    (ha : ∀ q c, (s.ring q).bound = some c → (s.comp c).active = true)
    (hp : ∀ c, (s.comp c).Posting) (d : CompRingId) : ((s.handOver r).comp d).Posting := by
  unfold State.handOver
  simp only [hh, Bool.false_eq_true, if_false]
  split
  · exact hp d
  · rename_i c hb
    by_cases hd : d = c
    · subst hd
      refine State.issueCompletion_posting _ _ hh ?_ ?_
      · rw [State.modComp_eq, State.setComp_comp, if_pos rfl]
        exact ha _ _ hb
      · rw [State.modComp_eq, State.setComp_comp, if_pos rfl]
        have h := hp d
        unfold CompletionRing.Posting at h ⊢
        cases hw : (s.comp d).writing with
        | none => exact .inl rfl
        | some p => rw [hw] at h; exact .inr h
    · rw [State.issueCompletion_comp_ne _ _ _ hd, State.modComp_eq, State.setComp_comp, if_neg hd]
      exact hp d

/-- Handing results over leaves the rings and the halt as they are, and each completion ring as active as it
was. -/
theorem State.handOver_active (s : State) (r : Completion) (d : CompRingId) :
    ((s.handOver r).comp d).active = (s.comp d).active := by
  unfold State.handOver State.issueCompletion
  dsimp only
  split
  · rfl
  · split
    · rfl
    · split
      · rw [State.modComp_eq, State.setComp_comp]; split <;> simp_all
      · split
        · rw [State.setComp_comp]
          split
          · rename_i hd; subst hd; rw [State.modComp_eq, State.setComp_comp, if_pos rfl]
          · rw [State.modComp_eq, State.setComp_comp]; split <;> simp_all
        · rw [State.modComp_eq, State.setComp_comp]; split <;> simp_all

/-- Results handed over one after another leave every ring posting (R94). -/
theorem State.handAll_posting (s : State) (rs : List Completion) (hh : s.halted = false)
    (ha : ∀ q c, (s.ring q).bound = some c → (s.comp c).active = true)
    (hp : ∀ c, (s.comp c).Posting) (d : CompRingId) : ((s.handAll rs).comp d).Posting := by
  unfold State.handAll
  induction rs generalizing s with
  | nil => exact hp d
  | cons r rs ih =>
    obtain ⟨x, h⟩ := State.handOver_frame s r
    refine ih (s.handOver r) (by rw [h]; exact hh) (fun q c hb => ?_)
      (fun c => State.handOver_posting s r hh ha hp c)
    rw [State.handOver_active]
    exact ha q c (by rw [h] at hb; exact hb)

/-! ### Notices -/

theorem State.setDirty_frame (s : State) (p : Report) :
    ∃ a b, s.setDirty p = { s with slotDirty := a, ringDirty := b } := by
  cases p with
  | slot n a b m => exact ⟨_, s.ringDirty, rfl⟩
  | ring r a b => exact ⟨s.slotDirty, _, rfl⟩

theorem State.clearDirty_frame (s : State) (p : Report) :
    ∃ a b, s.clearDirty p = { s with slotDirty := a, ringDirty := b } := by
  cases p with
  | slot n a b m => exact ⟨_, s.ringDirty, rfl⟩
  | ring r a b => exact ⟨s.slotDirty, _, rfl⟩

theorem State.drainDirty_frame (s : State) :
    ∃ w a b, s.drainDirty = { s with notices := w, slotDirty := a, ringDirty := b } := by
  unfold State.drainDirty
  split
  · split
    · exact ⟨s.notices, s.slotDirty, s.ringDirty, rfl⟩
    · rename_i p _
      obtain ⟨a, b, h⟩ := State.clearDirty_frame s p
      rw [h]
      exact ⟨_, a, b, rfl⟩
  · exact ⟨s.notices, s.slotDirty, s.ringDirty, rfl⟩

theorem State.notify_frame (s : State) (p : Report) :
    ∃ w a b, s.notify p = { s with notices := w, slotDirty := a, ringDirty := b } := by
  unfold State.notify
  split
  · exact ⟨_, s.slotDirty, s.ringDirty, rfl⟩
  · obtain ⟨a, b, h⟩ := State.setDirty_frame s p
    obtain ⟨w, a', b', h'⟩ := State.drainDirty_frame (s.setDirty p)
    exact ⟨w, a', b', by rw [h', h]⟩

theorem State.notifyState_frame (s : State) (n : SlotId) :
    ∃ w a b, s.notifyState n = { s with notices := w, slotDirty := a, ringDirty := b } :=
  State.notify_frame s _

/-- A SLOT_STATE notice handed over is being written or stands as a flag. -/
theorem State.notifyState_stateNoticed (s : State) (n : SlotId) : (s.notifyState n).stateNoticed n := by
  unfold State.notifyState State.notify
  split
  · exact .inr ⟨_, _, _, rfl⟩
  · unfold State.drainDirty
    split
    · split
      · left; simp [State.setDirty]
      · rename_i p hp
        unfold State.nextDirty at hp
        split at hp
        · rename_i m hm
          simp only [Option.some.injEq] at hp
          subst hp
          by_cases h : n = m
          · subst h
            right
            have hk : ((s.setDirty (.slot n true false 0)).dirtySlot n).stateKind = true := by
              simp [State.setDirty]
            rw [hk]
            exact ⟨_, _, _, rfl⟩
          · left
            show (((s.setDirty (.slot n true false 0)).setDirtySlot m SlotDirty.clear).dirtySlot n).set
                = true
              ∧ (((s.setDirty (.slot n true false 0)).setDirtySlot m SlotDirty.clear).dirtySlot
                n).stateKind = true
            rw [State.setDirtySlot_dirtySlot_ne _ _ _ _ h]
            simp [State.setDirty]
        · rename_i hm
          exfalso
          have := List.find?_eq_none.mp hm n (by fin_cases n <;> simp [allSlots])
          simp [State.setDirty] at this
    · left; simp [State.setDirty]

/-- Writing a merged record keeps every change that a notice reports (R168, R169). -/
theorem State.drainDirty_changeNoticed (s : State) (n : SlotId) (mask : BitVec 7)
    (h : s.changeNoticed n mask) : s.drainDirty.changeNoticed n mask := by
  unfold State.drainDirty
  split
  · rename_i hr
    have hw : s.notices.writing = none := by
      have := hr; simp only [State.noticeRoom, Bool.and_eq_true] at this
      simpa using this.1.2
    obtain ⟨h1, h2, h3⟩ | ⟨_, _, _, h1, _⟩ := h
    · cases hp : s.nextDirty with
      | none => exact .inl ⟨h1, h2, h3⟩
      | some p =>
        unfold State.nextDirty at hp
        split at hp
        · rename_i m hm
          simp only [Option.some.injEq] at hp
          subst hp
          by_cases e : n = m
          · subst e
            exact .inr ⟨_, _, _, by rw [h2]; rfl, h3⟩
          · left
            show ((s.setDirtySlot m SlotDirty.clear).dirtySlot n).set = true
              ∧ ((s.setDirtySlot m SlotDirty.clear).dirtySlot n).changedKind = true
              ∧ ((s.setDirtySlot m SlotDirty.clear).dirtySlot n).mask &&& mask = mask
            rw [State.setDirtySlot_dirtySlot_ne _ _ _ _ e]
            exact ⟨h1, h2, h3⟩
        · rename_i hm
          have := List.find?_eq_none.mp hm n (by fin_cases n <;> simp [allSlots])
          exact absurd h1 this
    · rw [hw] at h1; cases h1
  · exact h

/-- A further notice keeps every change that a notice reports. -/
theorem State.notify_keeps_changeNoticed (s : State) (p : Report) (n : SlotId) (mask : BitVec 7)
    (h : s.changeNoticed n mask) : (s.notify p).changeNoticed n mask := by
  unfold State.notify
  split
  · rename_i hr
    exfalso
    obtain ⟨h1, _, _⟩ | ⟨_, _, _, h1, _⟩ := h
    · have := hr.2
      simp only [State.anyDirty, Bool.or_eq_false_iff, List.any_eq_false] at this
      exact this.1 n (by fin_cases n <;> simp [allSlots]) h1
    · have := hr.1
      simp only [State.noticeRoom, Bool.and_eq_true] at this
      rw [h1] at this
      simp at this
  · apply State.drainDirty_changeNoticed
    obtain ⟨h1, h2, h3⟩ | h1 := h
    · left
      cases p with
      | slot m sk ck k =>
        by_cases e : n = m
        · subst e
          simp only [State.setDirty, State.setDirtySlot_dirtySlot_same]
          refine ⟨trivial, by simp [h2], ?_⟩
          ext i hi
          have h4 := congrArg (fun v : BitVec 7 => v[i]) h3
          simp only [BitVec.getElem_or, BitVec.getElem_and] at h4 ⊢
          revert h4
          cases (s.dirtySlot n).mask[i] <;> cases k[i] <;> cases mask[i] <;> simp
        · simp only [State.setDirty]
          rw [State.setDirtySlot_dirtySlot_ne _ _ _ _ e]
          exact ⟨h1, h2, h3⟩
      | ring r cause head => exact ⟨h1, h2, h3⟩
    · right
      cases p <;> exact h1

/-- A DESCRIPTOR_CHANGED notice handed over is being written or stands in its dirty flag. -/
theorem State.notify_changeNoticed (s : State) (n : SlotId) (mask : BitVec 7) :
    (s.notify (.slot n false true mask)).changeNoticed n mask := by
  unfold State.notify
  split
  · exact .inr ⟨_, _, _, rfl, by simp⟩
  · apply State.drainDirty_changeNoticed
    left
    simp only [State.setDirty, State.setDirtySlot_dirtySlot_same]
    refine ⟨trivial, by simp, ?_⟩
    ext i hi
    simp only [BitVec.getElem_or, BitVec.getElem_and]
    cases (s.dirtySlot n).mask[i] <;> cases mask[i] <;> rfl

end Sys2Proof.Machine
end

