-- ==== Sys2Proof/Laws/Lane.lean ====
section
/-! SUPPORT. What the lane arbiter's shared operations can do. -/

namespace Sys2Proof.Machine

/-- Slot `n` holds the lane or waits for it, as the arbiter sees it. -/
def State.onLane (s : State) (n : SlotId) : Prop :=
  s.lane.holder = some n ∨ ∃ w ∈ s.lane.waiters, w.slot = n

theorem State.setRole_frame (s : State) (n : SlotId) (role : LaneRole) :
    ∃ x, s.setRole n role = { s with slots := x } := ⟨_, rfl⟩

@[simp] theorem State.setRole_slot (s : State) (n m : SlotId) (role : LaneRole) :
    (s.setRole n role).slot m = if m = n then { s.slot n with laneRole := role } else s.slot m := by
  simp [State.setRole, State.setSlot_slot]

@[simp] theorem State.setRole_lane (s : State) (n : SlotId) (role : LaneRole) :
    (s.setRole n role).lane = s.lane := rfl

theorem State.endHold_frame (s : State) (n : SlotId) :
    ∃ x l, s.endHold n = { s with slots := x, lane := l } := ⟨_, _, rfl⟩

theorem State.dropWaiter_frame (s : State) (w : Waiter) :
    ∃ x l, s.dropWaiter w = { s with slots := x, lane := l } := ⟨_, _, rfl⟩

/-- A departure from the lane changes the arbiter and the role of the slot alone. -/
theorem State.laneDepart_frame (s : State) (n : SlotId) (status : Status) :
    ∃ x l, (s.laneDepart n status).1 = { s with slots := x, lane := l } := by
  unfold State.laneDepart
  split
  · exact State.endHold_frame s n
  · split
    · exact State.dropWaiter_frame s _
    · exact ⟨_, _, rfl⟩

/-- The waiter of a slot, in the list's own terms. -/
theorem State.waiterOf_some (s : State) (n : SlotId) (w : Waiter) (h : s.waiterOf n = some w) :
    w ∈ s.lane.waiters ∧ w.slot = n := by
  unfold State.waiterOf at h
  exact ⟨List.mem_of_find?_eq_some h, by simpa using List.find?_some h⟩

theorem State.waiterOf_none (s : State) (n : SlotId) (h : s.waiterOf n = none) :
    ∀ w ∈ s.lane.waiters, w.slot ≠ n := by
  unfold State.waiterOf at h
  simpa using h

/-- With no slot twice in the list, the waiter of a slot is the only one of it. -/
theorem waiters_of_slot (ws : List Waiter) (w : Waiter) (h : (ws.map Waiter.slot).Nodup) (hw : w ∈ ws) :
    ws.filter (fun v => v.slot = w.slot) = [w]
      ∧ ws.filter (fun v => v ≠ w) = ws.filter fun v => v.slot ≠ w.slot := by
  induction ws with
  | nil => cases hw
  | cons a ws ih =>
    rw [List.map_cons, List.nodup_cons] at h
    obtain ⟨h1, h2⟩ := h
    rw [List.mem_cons] at hw
    obtain hw | hw := hw
    · subst hw
      have hne : ∀ v ∈ ws, v.slot ≠ w.slot := fun v hv e => h1 (e ▸ List.mem_map_of_mem hv)
      constructor
      · rw [List.filter_cons_of_pos (by simp), List.filter_eq_nil_iff.mpr (by simpa using hne)]
      · rw [List.filter_cons_of_neg (by simp), List.filter_cons_of_neg (by simp)]
        apply List.filter_congr
        intro v hv
        have := hne v hv
        have h3 : v ≠ w := fun e => this (congrArg _ e)
        simp [this, h3]
    · obtain ⟨i1, i2⟩ := ih h2 hw
      have hne : a.slot ≠ w.slot := fun e => h1 (e ▸ List.mem_map_of_mem hw)
      have h3 : a ≠ w := fun e => hne (congrArg _ e)
      constructor
      · rw [List.filter_cons_of_neg (by simpa using hne), i1]
      · rw [List.filter_cons_of_pos (by simpa using h3), List.filter_cons_of_pos (by simpa using hne), i2]

/-- What a departure from a sound lane does (R161, R162). -/
theorem State.laneDepart_spec (s : State) (n : SlotId) (status : Status) (hl : s.lane.Sound) :
    (s.laneDepart n status).1.lane = (if s.lane.holder = some n then { s.lane with
        state := if s.lane.waiters = [] then .free else .settling, holder := none, holderRing := none
        settleTimer := if s.lane.waiters = [] then none else some s.lane.settleInterval, len := false }
      else { s.lane with waiters := s.lane.waiters.filter fun w => w.slot ≠ n })
    ∧ (∀ m, (s.laneDepart n status).1.slot m =
        if m = n ∧ (s.lane.holder = some n ∨ ∃ w ∈ s.lane.waiters, w.slot = n) then
          { s.slot n with laneRole := .none } else s.slot m)
    ∧ (s.laneDepart n status).2 = (s.lane.waiters.filter fun w => w.slot = n).map fun w =>
        completionOf w.ring w.tag n.val w.ringHead status (s.slot n).generation 0 := by
  obtain ⟨_, hheld, hnot, _, _, _, hnd, hself⟩ := hl
  unfold State.laneDepart
  by_cases hh : s.lane.holder = some n
  · have hst : s.lane.state = .held := by
      by_contra hc
      rw [(hnot hc).1] at hh
      cases hh
    have hw : ∀ w ∈ s.lane.waiters, w.slot ≠ n := fun w hw e => hself w hw (e ▸ hh)
    have hf : s.lane.waiters.filter (fun w => w.slot = n) = [] :=
      List.filter_eq_nil_iff.mpr (by simpa using hw)
    simp only [hst, hh, and_self, if_true, hf, List.map_nil, true_or, and_true]
    refine ⟨?_, fun m => ?_⟩
    · simp only [State.endHold, State.modLane, State.setRole_lane]
      cases s.lane.waiters <;> simp
    · simp only [State.endHold, State.setRole_slot]
      rfl
  · have hn : ¬ (s.lane.state = .held ∧ s.lane.holder = some n) := fun h => hh h.2
    rw [if_neg hn, if_neg hh]
    cases hw : s.waiterOf n with
    | none =>
      have hw' := State.waiterOf_none s n hw
      have hf : s.lane.waiters.filter (fun w => w.slot = n) = [] :=
        List.filter_eq_nil_iff.mpr (by simpa using hw')
      have hg : s.lane.waiters.filter (fun w => w.slot ≠ n) = s.lane.waiters :=
        List.filter_eq_self.mpr (by simpa using hw')
      have he : ¬ ∃ w ∈ s.lane.waiters, w.slot = n := by simpa using hw'
      simp only [hf, hg, hh, he, or_self, and_false, if_false, List.map_nil]
      exact ⟨trivial, fun _ => trivial, trivial⟩
    | some w =>
      obtain ⟨hm, hs⟩ := State.waiterOf_some s n w hw
      obtain ⟨h1, h2⟩ := waiters_of_slot s.lane.waiters w hnd hm
      subst hs
      have he : ∃ v ∈ s.lane.waiters, v.slot = w.slot := ⟨w, hm, rfl⟩
      simp only [h1, he, or_true, and_true]
      refine ⟨?_, fun m => ?_, rfl⟩
      · simp only [State.dropWaiter, State.modLane, State.setRole_lane, h2]
      · simp only [State.dropWaiter, State.setRole_slot]; rfl

end Sys2Proof.Machine
end

