-- ==== Sys2Proof/Laws/Rings.lean ====
section
/-! SUPPORT. What the shared operations of the fetch arbiter and of the free order can do. -/

namespace Sys2Proof.Machine

/-! ### Merging in an open order -/

/-- What a free merge of two groups gives: all of both, each in its order. -/
theorem freeMerge_two (fuel k : Nat) (a b : List Completion) (h : a.length + b.length < fuel) :
    (freeMerge fuel k [a, b]).1.Perm (a ++ b) ∧ a.Sublist (freeMerge fuel k [a, b]).1
      ∧ b.Sublist (freeMerge fuel k [a, b]).1 := by
  induction fuel generalizing k a b with
  | zero => omega
  | succ fuel ih =>
    unfold freeMerge
    cases a with
    | nil =>
      cases b with
      | nil => simp
      | cons y ys => simp
    | cons x xs =>
      cases b with
      | nil => simp
      | cons y ys =>
        simp only [List.isEmpty_cons, Bool.not_false, List.filter_cons_of_pos, List.filter_nil,
          List.length_cons, List.length_nil]
        have hi : Config.freeChoice k % (0 + 1 + 1) = 0 ∨ Config.freeChoice k % (0 + 1 + 1) = 1 := by
          omega
        obtain hi | hi := hi
        · rw [hi]
          obtain ⟨p, q, r⟩ := ih (k + 1) xs (y :: ys) (by simp at h ⊢; omega)
          simp only [List.getD_cons_zero, List.tail_cons, List.set_cons_zero, List.take_succ_cons,
            List.take_zero, List.cons_append]
          exact ⟨p.cons x, q.cons_cons x, r.trans (List.sublist_cons_self _ _)⟩
        · rw [hi]
          obtain ⟨p, q, r⟩ := ih (k + 1) (x :: xs) ys (by simp at h ⊢; omega)
          simp only [List.getD_cons_succ, List.getD_cons_zero, List.tail_cons, List.set_cons_succ,
            List.set_cons_zero, List.take_succ_cons, List.take_zero, List.singleton_append]
          refine ⟨?_, q.trans (List.sublist_cons_self _ _), r.cons_cons y⟩
          exact (p.cons y).trans List.perm_middle.symm

/-- Two groups handed over in an open order. -/
theorem State.handMerged_two (s : State) (a b : List Completion) :
    ∃ rs, rs.Perm (a ++ b) ∧ a.Sublist rs ∧ b.Sublist rs ∧ s.handed (s.handMerged [a, b]) rs := by
  obtain ⟨p, q, r⟩ := freeMerge_two ([a, b].flatten.length + 1) s.freeCount a b (by simp)
  exact ⟨_, p, q, r, fun c => State.handAll_handed _ _ c⟩

/-! ### Refusing waiting records -/

theorem State.acceptRecord_frame (s : State) (r : RingId) (tag : Half) :
    ∃ x, s.acceptRecord r tag = { s with rings := x } := ⟨_, rfl⟩

/-- Accepting a record leaves every ring's binding. -/
theorem State.acceptRecord_bound (s : State) (r q : RingId) (tag : Half) :
    ((s.acceptRecord r tag).ring q).bound = (s.ring q).bound := by
  simp only [State.acceptRecord, State.modRing_eq, State.setRing_ring]
  split
  · rename_i h; subst h; rfl
  · rfl

theorem State.refuseNotReady_frame (s : State) (r : RingId) (q : Request) :
    ∃ x y, s.refuseNotReady r q = { s with rings := x, compRings := y } := by
  obtain ⟨y, h⟩ := State.handOver_frame (s.acceptRecord r q.tag)
    (completionOf r q.tag q.slot.val (s.ring r).nextHead .notReady (s.slot q.slot).generation 0)
  exact ⟨_, y, h⟩

/-- What refusing the wait order of a slot can do: it takes records of rings, hands over NOT_READY completions,
and empties the order unless the device is halted. -/
theorem State.refuseWaiting_spec (s : State) (n : SlotId) :
    (∃ x y z, s.refuseWaiting n = { s with rings := x, waitOrders := y, compRings := z })
      ∧ (∀ q, ((s.refuseWaiting n).ring q).bound = (s.ring q).bound)
      ∧ (s.halted = false → (s.refuseWaiting n).waitOrder n = [])
      ∧ ∀ c, ∃ late, ((s.refuseWaiting n).comp c).results = (s.comp c).results ++ late
        ∧ ∀ r ∈ late, r.status = .notReady := by
  unfold State.refuseWaiting
  cases hh : s.halted with
  | true => exact ⟨⟨_, _, _, rfl⟩, fun _ => rfl, nofun, fun c => ⟨[], by simp⟩⟩
  | false =>
    simp only [Bool.false_eq_true, if_false]
    suffices key : ∀ (l : List RingId) (u v : State), v = l.foldl State.refuseRecord u →
        (∃ x z, v = { u with rings := x, compRings := z })
          ∧ (∀ q, (v.ring q).bound = (u.ring q).bound)
          ∧ ∀ c, ∃ late, (v.comp c).results = (u.comp c).results ++ late
            ∧ ∀ r ∈ late, r.status = .notReady by
      obtain ⟨⟨x, z, hf⟩, hb, hl⟩ := key (s.waitOrder n) (s.setWaitOrder n []) _ rfl
      refine ⟨⟨x, _, z, hf⟩, fun q => by rw [hb q]; rfl, fun _ => ?_, fun c => ?_⟩
      · rw [hf]; exact State.setWaitOrder_waitOrder_same s n []
      · obtain ⟨late, h1, h2⟩ := hl c
        exact ⟨late, by rw [h1]; rfl, h2⟩
    intro l
    induction l with
    | nil => intro u v hv; subst hv; exact ⟨⟨_, _, rfl⟩, fun _ => rfl, fun c => ⟨[], by simp⟩⟩
    | cons r l ih =>
      intro u v hv
      rw [List.foldl_cons] at hv
      unfold State.refuseRecord at hv
      cases hst : (u.ring r).staging with
      | holding q =>
        simp only [hst] at hv
        obtain ⟨⟨x, z, hf⟩, hb, hl⟩ := ih _ _ hv
        obtain ⟨y, h⟩ := State.handOver_frame (u.acceptRecord r q.tag)
          (completionOf r q.tag q.slot.val (u.ring r).nextHead .notReady
            (u.slot q.slot).generation 0)
        have h' : u.refuseNotReady r q = { u.acceptRecord r q.tag with compRings := y } := h
        refine ⟨⟨x, z, by rw [hf, h']; rfl⟩, fun p => ?_, fun c => ?_⟩
        · rw [hb p, h']; exact State.acceptRecord_bound u r p q.tag
        · obtain ⟨late, h1, h2⟩ := hl c
          refine ⟨(u.acceptRecord r q.tag).goingTo c [completionOf r q.tag q.slot.val
            (u.ring r).nextHead .notReady (u.slot q.slot).generation 0] ++ late, ?_, ?_⟩
          · rw [h1]
            have := State.handOver_results (u.acceptRecord r q.tag)
              (completionOf r q.tag q.slot.val (u.ring r).nextHead .notReady
                (u.slot q.slot).generation 0) c
            rw [← List.append_assoc]
            congr 1
          · intro p hp
            rw [List.mem_append] at hp
            obtain hp | hp := hp
            · unfold State.goingTo at hp
              split at hp
              · cases hp
              · have := (List.mem_filter.mp hp).1
                rw [List.mem_singleton] at this
                subst this
                rfl
            · exact h2 p hp
      | empty => simp only [hst] at hv; exact ih _ _ hv
      | fetching => simp only [hst] at hv; exact ih _ _ hv
      | refused => simp only [hst] at hv; exact ih _ _ hv

/-! ### Offering free places -/

/-- The lists of one engine change at most in its pending list. -/
theorem State.joinList_frame (s : State) (r : RingId) (q : Request) :
    s.joinList r q = { s.acceptRecord r q.tag with
      engines := s.engines.set q.slot { s.engine q.slot with
        pendingList := (s.engine q.slot).pendingList ++ [q.entry r (s.ring r).nextHead] } } := rfl

/-- What offering free places can do: it takes records of rings into pending lists and out of wait orders. -/
theorem State.offerPlaces_spec (s : State) (n : SlotId) :
    (∃ x y z, s.offerPlaces n = { s with rings := x, waitOrders := y, engines := z })
      ∧ (∀ q, ((s.offerPlaces n).ring q).bound = (s.ring q).bound)
      ∧ ∀ m, ∃ more, (s.offerPlaces n).engine m
          = { s.engine m with pendingList := (s.engine m).pendingList ++ more } := by
  unfold State.offerPlaces
  generalize (s.waitOrder n).length = fuel
  induction fuel generalizing s with
  | zero => exact ⟨⟨_, _, _, rfl⟩, fun _ => rfl, fun m => ⟨[], by simp [State.offerTurns]⟩⟩
  | succ fuel ih =>
    unfold State.offerTurns
    have base : (∃ x y z, s = { s with rings := x, waitOrders := y, engines := z })
        ∧ (∀ q, (s.ring q).bound = (s.ring q).bound)
        ∧ ∀ m, ∃ more, s.engine m
            = { s.engine m with pendingList := (s.engine m).pendingList ++ more } :=
      ⟨⟨_, _, _, rfl⟩, fun _ => rfl, fun m => ⟨[], by simp⟩⟩
    split
    · exact base
    · split
      · exact base
      · rename_i r rest _
        split
        · split
          · rename_i q _
            obtain ⟨⟨x, y, z, hf⟩, hb, he⟩ := ih ((s.setWaitOrder n rest).joinList r q)
            refine ⟨⟨x, y, z, by rw [hf]; rfl⟩, fun p => ?_, fun m => ?_⟩
            · rw [hb p]; exact State.acceptRecord_bound (s.setWaitOrder n rest) r p q.tag
            · obtain ⟨more, hm⟩ := he m
              have hj : ((s.setWaitOrder n rest).joinList r q).engine m =
                  if m = q.slot then { s.engine q.slot with
                    pendingList := (s.engine q.slot).pendingList ++ [q.entry r (s.ring r).nextHead] }
                  else s.engine m := by
                simp only [State.joinList, State.modEngine_eq, State.setEngine_engine]; rfl
              rw [hm, hj]
              split
              · rename_i hq; subst hq
                exact ⟨q.entry r (s.ring r).nextHead :: more, by simp⟩
              · exact ⟨more, rfl⟩
          all_goals
            obtain ⟨⟨x, y, z, hf⟩, hb, he⟩ := ih (s.setWaitOrder n rest)
            exact ⟨⟨x, y, z, by rw [hf]; rfl⟩, hb, he⟩
        · exact base

end Sys2Proof.Machine
end

