-- ==== Sys2Proof/Laws/Frames.lean ====
section
/-! SUPPORT. One lemma for each field and accessor that a shared operation of the poster or the fetch arbiter
leaves as it was. -/

namespace Sys2Proof.Machine

theorem State.settleOff_frame (s : State) (n : SlotId) : ∃ d, s.settleOff n = { s with deferred := d } := by
  unfold State.settleOff; split <;> exact ⟨_, rfl⟩

theorem State.writeVerdict_frame (s : State) (n : SlotId) (d : Desc) : ∃ x y z u,
    s.writeVerdict n d = { s with slots := x, notices := y, slotDirty := z, ringDirty := u } := by
  unfold State.writeVerdict
  dsimp only
  split
  · exact ⟨_, s.notices, s.slotDirty, s.ringDirty, rfl⟩
  · obtain ⟨y, z, u, h⟩ := State.notify_frame (s.modSlot n fun x => { x with desc := d })
      (.slot n false true (changeMask (s.slot n).desc d))
    exact ⟨_, y, z, u, h⟩

theorem State.cutVerdict_frame (s : State) (n : SlotId) : ∃ x y z u,
    s.cutVerdict n = { s with slots := x, notices := y, slotDirty := z, ringDirty := u } := by
  unfold State.cutVerdict
  split
  · split
    · exact State.writeVerdict_frame s n _
    · exact ⟨_, _, _, _, rfl⟩
  · exact ⟨_, _, _, _, rfl⟩

variable (s : State)

@[simp] theorem State.raiseOpt_pending (v : Option VectorId) : (s.raiseOpt v).pending = s.pending := by
  obtain ⟨_, _, h⟩ := State.raiseOpt_frame s v; rw [h]
@[simp] theorem State.raiseOpt_condition (v : Option VectorId) : (s.raiseOpt v).condition = s.condition := by
  obtain ⟨_, _, h⟩ := State.raiseOpt_frame s v; rw [h]
@[simp] theorem State.raiseOpt_intEnable (v : Option VectorId) : (s.raiseOpt v).intEnable = s.intEnable := by
  obtain ⟨_, _, h⟩ := State.raiseOpt_frame s v; rw [h]
@[simp] theorem State.raiseOpt_haltCause (v : Option VectorId) : (s.raiseOpt v).haltCause = s.haltCause := by
  obtain ⟨_, _, h⟩ := State.raiseOpt_frame s v; rw [h]
@[simp] theorem State.raiseOpt_postError (v : Option VectorId) : (s.raiseOpt v).postError = s.postError := by
  obtain ⟨_, _, h⟩ := State.raiseOpt_frame s v; rw [h]
@[simp] theorem State.raiseOpt_startLo (v : Option VectorId) : (s.raiseOpt v).startLo = s.startLo := by
  obtain ⟨_, _, h⟩ := State.raiseOpt_frame s v; rw [h]
@[simp] theorem State.raiseOpt_startHi (v : Option VectorId) : (s.raiseOpt v).startHi = s.startHi := by
  obtain ⟨_, _, h⟩ := State.raiseOpt_frame s v; rw [h]
@[simp] theorem State.raiseOpt_startCopy (v : Option VectorId) : (s.raiseOpt v).startCopy = s.startCopy := by
  obtain ⟨_, _, h⟩ := State.raiseOpt_frame s v; rw [h]
@[simp] theorem State.raiseOpt_startRead (v : Option VectorId) : (s.raiseOpt v).startRead = s.startRead := by
  obtain ⟨_, _, h⟩ := State.raiseOpt_frame s v; rw [h]
@[simp] theorem State.raiseOpt_startMoot (v : Option VectorId) : (s.raiseOpt v).startMoot = s.startMoot := by
  obtain ⟨_, _, h⟩ := State.raiseOpt_frame s v; rw [h]
@[simp] theorem State.raiseOpt_laneFitted (v : Option VectorId) : (s.raiseOpt v).laneFitted = s.laneFitted := by
  obtain ⟨_, _, h⟩ := State.raiseOpt_frame s v; rw [h]
@[simp] theorem State.raiseOpt_inReset (v : Option VectorId) : (s.raiseOpt v).inReset = s.inReset := by
  obtain ⟨_, _, h⟩ := State.raiseOpt_frame s v; rw [h]
@[simp] theorem State.raiseOpt_readData (v : Option VectorId) : (s.raiseOpt v).readData = s.readData := by
  obtain ⟨_, _, h⟩ := State.raiseOpt_frame s v; rw [h]
@[simp] theorem State.raiseOpt_slots (v : Option VectorId) : (s.raiseOpt v).slots = s.slots := by
  obtain ⟨_, _, h⟩ := State.raiseOpt_frame s v; rw [h]
@[simp] theorem State.raiseOpt_engines (v : Option VectorId) : (s.raiseOpt v).engines = s.engines := by
  obtain ⟨_, _, h⟩ := State.raiseOpt_frame s v; rw [h]
@[simp] theorem State.raiseOpt_rings (v : Option VectorId) : (s.raiseOpt v).rings = s.rings := by
  obtain ⟨_, _, h⟩ := State.raiseOpt_frame s v; rw [h]
@[simp] theorem State.raiseOpt_roundRobin (v : Option VectorId) : (s.raiseOpt v).roundRobin = s.roundRobin := by
  obtain ⟨_, _, h⟩ := State.raiseOpt_frame s v; rw [h]
@[simp] theorem State.raiseOpt_recordRead (v : Option VectorId) : (s.raiseOpt v).recordRead = s.recordRead := by
  obtain ⟨_, _, h⟩ := State.raiseOpt_frame s v; rw [h]
@[simp] theorem State.raiseOpt_waitOrders (v : Option VectorId) : (s.raiseOpt v).waitOrders = s.waitOrders := by
  obtain ⟨_, _, h⟩ := State.raiseOpt_frame s v; rw [h]
@[simp] theorem State.raiseOpt_control (v : Option VectorId) : (s.raiseOpt v).control = s.control := by
  obtain ⟨_, _, h⟩ := State.raiseOpt_frame s v; rw [h]
@[simp] theorem State.raiseOpt_snapshotWrite (v : Option VectorId) : (s.raiseOpt v).snapshotWrite = s.snapshotWrite := by
  obtain ⟨_, _, h⟩ := State.raiseOpt_frame s v; rw [h]
@[simp] theorem State.raiseOpt_deferred (v : Option VectorId) : (s.raiseOpt v).deferred = s.deferred := by
  obtain ⟨_, _, h⟩ := State.raiseOpt_frame s v; rw [h]
@[simp] theorem State.raiseOpt_locks (v : Option VectorId) : (s.raiseOpt v).locks = s.locks := by
  obtain ⟨_, _, h⟩ := State.raiseOpt_frame s v; rw [h]
@[simp] theorem State.raiseOpt_lane (v : Option VectorId) : (s.raiseOpt v).lane = s.lane := by
  obtain ⟨_, _, h⟩ := State.raiseOpt_frame s v; rw [h]
@[simp] theorem State.raiseOpt_compRings (v : Option VectorId) : (s.raiseOpt v).compRings = s.compRings := by
  obtain ⟨_, _, h⟩ := State.raiseOpt_frame s v; rw [h]
@[simp] theorem State.raiseOpt_notices (v : Option VectorId) : (s.raiseOpt v).notices = s.notices := by
  obtain ⟨_, _, h⟩ := State.raiseOpt_frame s v; rw [h]
@[simp] theorem State.raiseOpt_slotDirty (v : Option VectorId) : (s.raiseOpt v).slotDirty = s.slotDirty := by
  obtain ⟨_, _, h⟩ := State.raiseOpt_frame s v; rw [h]
@[simp] theorem State.raiseOpt_ringDirty (v : Option VectorId) : (s.raiseOpt v).ringDirty = s.ringDirty := by
  obtain ⟨_, _, h⟩ := State.raiseOpt_frame s v; rw [h]
@[simp] theorem State.raiseOpt_vectorMasked (v : Option VectorId) : (s.raiseOpt v).vectorMasked = s.vectorMasked := by
  obtain ⟨_, _, h⟩ := State.raiseOpt_frame s v; rw [h]
@[simp] theorem State.raiseOpt_freeCount (v : Option VectorId) : (s.raiseOpt v).freeCount = s.freeCount := by
  obtain ⟨_, _, h⟩ := State.raiseOpt_frame s v; rw [h]
@[simp] theorem State.raiseOpt_halted (v : Option VectorId) : (s.raiseOpt v).halted = s.halted := by simp [State.halted]
@[simp] theorem State.raiseOpt_slot (v : Option VectorId) (k : SlotId) : (s.raiseOpt v).slot k = s.slot k := by simp [State.slot]
@[simp] theorem State.raiseOpt_engine (v : Option VectorId) (k : SlotId) : (s.raiseOpt v).engine k = s.engine k := by simp [State.engine]
@[simp] theorem State.raiseOpt_ring (v : Option VectorId) (k : RingId) : (s.raiseOpt v).ring k = s.ring k := by simp [State.ring]
@[simp] theorem State.raiseOpt_comp (v : Option VectorId) (k : CompRingId) : (s.raiseOpt v).comp k = s.comp k := by simp [State.comp]
@[simp] theorem State.raiseOpt_waitOrder (v : Option VectorId) (k : SlotId) : (s.raiseOpt v).waitOrder k = s.waitOrder k := by simp [State.waitOrder]
@[simp] theorem State.raiseOpt_dirtySlot (v : Option VectorId) (k : SlotId) : (s.raiseOpt v).dirtySlot k = s.dirtySlot k := by simp [State.dirtySlot]
@[simp] theorem State.raiseOpt_dirtyRing (v : Option VectorId) (k : RingId) : (s.raiseOpt v).dirtyRing k = s.dirtyRing k := by simp [State.dirtyRing]
@[simp] theorem State.raiseOpt_vecMasked (v : Option VectorId) (k : VectorId) : (s.raiseOpt v).vecMasked k = s.vecMasked k := by simp [State.vecMasked]

@[simp] theorem State.issueCompletion_pending (c : CompRingId) : (s.issueCompletion c).pending = s.pending := by
  obtain ⟨_, h⟩ := State.issueCompletion_frame s c; rw [h]
@[simp] theorem State.issueCompletion_condition (c : CompRingId) : (s.issueCompletion c).condition = s.condition := by
  obtain ⟨_, h⟩ := State.issueCompletion_frame s c; rw [h]
@[simp] theorem State.issueCompletion_intEnable (c : CompRingId) : (s.issueCompletion c).intEnable = s.intEnable := by
  obtain ⟨_, h⟩ := State.issueCompletion_frame s c; rw [h]
@[simp] theorem State.issueCompletion_haltCause (c : CompRingId) : (s.issueCompletion c).haltCause = s.haltCause := by
  obtain ⟨_, h⟩ := State.issueCompletion_frame s c; rw [h]
@[simp] theorem State.issueCompletion_postError (c : CompRingId) : (s.issueCompletion c).postError = s.postError := by
  obtain ⟨_, h⟩ := State.issueCompletion_frame s c; rw [h]
@[simp] theorem State.issueCompletion_startLo (c : CompRingId) : (s.issueCompletion c).startLo = s.startLo := by
  obtain ⟨_, h⟩ := State.issueCompletion_frame s c; rw [h]
@[simp] theorem State.issueCompletion_startHi (c : CompRingId) : (s.issueCompletion c).startHi = s.startHi := by
  obtain ⟨_, h⟩ := State.issueCompletion_frame s c; rw [h]
@[simp] theorem State.issueCompletion_startCopy (c : CompRingId) : (s.issueCompletion c).startCopy = s.startCopy := by
  obtain ⟨_, h⟩ := State.issueCompletion_frame s c; rw [h]
@[simp] theorem State.issueCompletion_startRead (c : CompRingId) : (s.issueCompletion c).startRead = s.startRead := by
  obtain ⟨_, h⟩ := State.issueCompletion_frame s c; rw [h]
@[simp] theorem State.issueCompletion_startMoot (c : CompRingId) : (s.issueCompletion c).startMoot = s.startMoot := by
  obtain ⟨_, h⟩ := State.issueCompletion_frame s c; rw [h]
@[simp] theorem State.issueCompletion_laneFitted (c : CompRingId) : (s.issueCompletion c).laneFitted = s.laneFitted := by
  obtain ⟨_, h⟩ := State.issueCompletion_frame s c; rw [h]
@[simp] theorem State.issueCompletion_inReset (c : CompRingId) : (s.issueCompletion c).inReset = s.inReset := by
  obtain ⟨_, h⟩ := State.issueCompletion_frame s c; rw [h]
@[simp] theorem State.issueCompletion_readData (c : CompRingId) : (s.issueCompletion c).readData = s.readData := by
  obtain ⟨_, h⟩ := State.issueCompletion_frame s c; rw [h]
@[simp] theorem State.issueCompletion_slots (c : CompRingId) : (s.issueCompletion c).slots = s.slots := by
  obtain ⟨_, h⟩ := State.issueCompletion_frame s c; rw [h]
@[simp] theorem State.issueCompletion_engines (c : CompRingId) : (s.issueCompletion c).engines = s.engines := by
  obtain ⟨_, h⟩ := State.issueCompletion_frame s c; rw [h]
@[simp] theorem State.issueCompletion_rings (c : CompRingId) : (s.issueCompletion c).rings = s.rings := by
  obtain ⟨_, h⟩ := State.issueCompletion_frame s c; rw [h]
@[simp] theorem State.issueCompletion_roundRobin (c : CompRingId) : (s.issueCompletion c).roundRobin = s.roundRobin := by
  obtain ⟨_, h⟩ := State.issueCompletion_frame s c; rw [h]
@[simp] theorem State.issueCompletion_recordRead (c : CompRingId) : (s.issueCompletion c).recordRead = s.recordRead := by
  obtain ⟨_, h⟩ := State.issueCompletion_frame s c; rw [h]
@[simp] theorem State.issueCompletion_waitOrders (c : CompRingId) : (s.issueCompletion c).waitOrders = s.waitOrders := by
  obtain ⟨_, h⟩ := State.issueCompletion_frame s c; rw [h]
@[simp] theorem State.issueCompletion_control (c : CompRingId) : (s.issueCompletion c).control = s.control := by
  obtain ⟨_, h⟩ := State.issueCompletion_frame s c; rw [h]
@[simp] theorem State.issueCompletion_snapshotWrite (c : CompRingId) : (s.issueCompletion c).snapshotWrite = s.snapshotWrite := by
  obtain ⟨_, h⟩ := State.issueCompletion_frame s c; rw [h]
@[simp] theorem State.issueCompletion_deferred (c : CompRingId) : (s.issueCompletion c).deferred = s.deferred := by
  obtain ⟨_, h⟩ := State.issueCompletion_frame s c; rw [h]
@[simp] theorem State.issueCompletion_locks (c : CompRingId) : (s.issueCompletion c).locks = s.locks := by
  obtain ⟨_, h⟩ := State.issueCompletion_frame s c; rw [h]
@[simp] theorem State.issueCompletion_lane (c : CompRingId) : (s.issueCompletion c).lane = s.lane := by
  obtain ⟨_, h⟩ := State.issueCompletion_frame s c; rw [h]
@[simp] theorem State.issueCompletion_notices (c : CompRingId) : (s.issueCompletion c).notices = s.notices := by
  obtain ⟨_, h⟩ := State.issueCompletion_frame s c; rw [h]
@[simp] theorem State.issueCompletion_slotDirty (c : CompRingId) : (s.issueCompletion c).slotDirty = s.slotDirty := by
  obtain ⟨_, h⟩ := State.issueCompletion_frame s c; rw [h]
@[simp] theorem State.issueCompletion_ringDirty (c : CompRingId) : (s.issueCompletion c).ringDirty = s.ringDirty := by
  obtain ⟨_, h⟩ := State.issueCompletion_frame s c; rw [h]
@[simp] theorem State.issueCompletion_vectorPending (c : CompRingId) : (s.issueCompletion c).vectorPending = s.vectorPending := by
  obtain ⟨_, h⟩ := State.issueCompletion_frame s c; rw [h]
@[simp] theorem State.issueCompletion_vectorMasked (c : CompRingId) : (s.issueCompletion c).vectorMasked = s.vectorMasked := by
  obtain ⟨_, h⟩ := State.issueCompletion_frame s c; rw [h]
@[simp] theorem State.issueCompletion_messagesSent (c : CompRingId) : (s.issueCompletion c).messagesSent = s.messagesSent := by
  obtain ⟨_, h⟩ := State.issueCompletion_frame s c; rw [h]
@[simp] theorem State.issueCompletion_freeCount (c : CompRingId) : (s.issueCompletion c).freeCount = s.freeCount := by
  obtain ⟨_, h⟩ := State.issueCompletion_frame s c; rw [h]
@[simp] theorem State.issueCompletion_halted (c : CompRingId) : (s.issueCompletion c).halted = s.halted := by simp [State.halted]
@[simp] theorem State.issueCompletion_slot (c : CompRingId) (k : SlotId) : (s.issueCompletion c).slot k = s.slot k := by simp [State.slot]
@[simp] theorem State.issueCompletion_engine (c : CompRingId) (k : SlotId) : (s.issueCompletion c).engine k = s.engine k := by simp [State.engine]
@[simp] theorem State.issueCompletion_ring (c : CompRingId) (k : RingId) : (s.issueCompletion c).ring k = s.ring k := by simp [State.ring]
@[simp] theorem State.issueCompletion_waitOrder (c : CompRingId) (k : SlotId) : (s.issueCompletion c).waitOrder k = s.waitOrder k := by simp [State.waitOrder]
@[simp] theorem State.issueCompletion_dirtySlot (c : CompRingId) (k : SlotId) : (s.issueCompletion c).dirtySlot k = s.dirtySlot k := by simp [State.dirtySlot]
@[simp] theorem State.issueCompletion_dirtyRing (c : CompRingId) (k : RingId) : (s.issueCompletion c).dirtyRing k = s.dirtyRing k := by simp [State.dirtyRing]
@[simp] theorem State.issueCompletion_vecPending (c : CompRingId) (k : VectorId) : (s.issueCompletion c).vecPending k = s.vecPending k := by simp [State.vecPending]
@[simp] theorem State.issueCompletion_vecMasked (c : CompRingId) (k : VectorId) : (s.issueCompletion c).vecMasked k = s.vecMasked k := by simp [State.vecMasked]
@[simp] theorem State.issueCompletion_msgCount (c : CompRingId) (k : VectorId) : (s.issueCompletion c).msgCount k = s.msgCount k := by simp [State.msgCount]

@[simp] theorem State.handOver_pending (r : Completion) : (s.handOver r).pending = s.pending := by
  obtain ⟨_, h⟩ := State.handOver_frame s r; rw [h]
@[simp] theorem State.handOver_condition (r : Completion) : (s.handOver r).condition = s.condition := by
  obtain ⟨_, h⟩ := State.handOver_frame s r; rw [h]
@[simp] theorem State.handOver_intEnable (r : Completion) : (s.handOver r).intEnable = s.intEnable := by
  obtain ⟨_, h⟩ := State.handOver_frame s r; rw [h]
@[simp] theorem State.handOver_haltCause (r : Completion) : (s.handOver r).haltCause = s.haltCause := by
  obtain ⟨_, h⟩ := State.handOver_frame s r; rw [h]
@[simp] theorem State.handOver_postError (r : Completion) : (s.handOver r).postError = s.postError := by
  obtain ⟨_, h⟩ := State.handOver_frame s r; rw [h]
@[simp] theorem State.handOver_startLo (r : Completion) : (s.handOver r).startLo = s.startLo := by
  obtain ⟨_, h⟩ := State.handOver_frame s r; rw [h]
@[simp] theorem State.handOver_startHi (r : Completion) : (s.handOver r).startHi = s.startHi := by
  obtain ⟨_, h⟩ := State.handOver_frame s r; rw [h]
@[simp] theorem State.handOver_startCopy (r : Completion) : (s.handOver r).startCopy = s.startCopy := by
  obtain ⟨_, h⟩ := State.handOver_frame s r; rw [h]
@[simp] theorem State.handOver_startRead (r : Completion) : (s.handOver r).startRead = s.startRead := by
  obtain ⟨_, h⟩ := State.handOver_frame s r; rw [h]
@[simp] theorem State.handOver_startMoot (r : Completion) : (s.handOver r).startMoot = s.startMoot := by
  obtain ⟨_, h⟩ := State.handOver_frame s r; rw [h]
@[simp] theorem State.handOver_laneFitted (r : Completion) : (s.handOver r).laneFitted = s.laneFitted := by
  obtain ⟨_, h⟩ := State.handOver_frame s r; rw [h]
@[simp] theorem State.handOver_inReset (r : Completion) : (s.handOver r).inReset = s.inReset := by
  obtain ⟨_, h⟩ := State.handOver_frame s r; rw [h]
@[simp] theorem State.handOver_readData (r : Completion) : (s.handOver r).readData = s.readData := by
  obtain ⟨_, h⟩ := State.handOver_frame s r; rw [h]
@[simp] theorem State.handOver_slots (r : Completion) : (s.handOver r).slots = s.slots := by
  obtain ⟨_, h⟩ := State.handOver_frame s r; rw [h]
@[simp] theorem State.handOver_engines (r : Completion) : (s.handOver r).engines = s.engines := by
  obtain ⟨_, h⟩ := State.handOver_frame s r; rw [h]
@[simp] theorem State.handOver_rings (r : Completion) : (s.handOver r).rings = s.rings := by
  obtain ⟨_, h⟩ := State.handOver_frame s r; rw [h]
@[simp] theorem State.handOver_roundRobin (r : Completion) : (s.handOver r).roundRobin = s.roundRobin := by
  obtain ⟨_, h⟩ := State.handOver_frame s r; rw [h]
@[simp] theorem State.handOver_recordRead (r : Completion) : (s.handOver r).recordRead = s.recordRead := by
  obtain ⟨_, h⟩ := State.handOver_frame s r; rw [h]
@[simp] theorem State.handOver_waitOrders (r : Completion) : (s.handOver r).waitOrders = s.waitOrders := by
  obtain ⟨_, h⟩ := State.handOver_frame s r; rw [h]
@[simp] theorem State.handOver_control (r : Completion) : (s.handOver r).control = s.control := by
  obtain ⟨_, h⟩ := State.handOver_frame s r; rw [h]
@[simp] theorem State.handOver_snapshotWrite (r : Completion) : (s.handOver r).snapshotWrite = s.snapshotWrite := by
  obtain ⟨_, h⟩ := State.handOver_frame s r; rw [h]
@[simp] theorem State.handOver_deferred (r : Completion) : (s.handOver r).deferred = s.deferred := by
  obtain ⟨_, h⟩ := State.handOver_frame s r; rw [h]
@[simp] theorem State.handOver_locks (r : Completion) : (s.handOver r).locks = s.locks := by
  obtain ⟨_, h⟩ := State.handOver_frame s r; rw [h]
@[simp] theorem State.handOver_lane (r : Completion) : (s.handOver r).lane = s.lane := by
  obtain ⟨_, h⟩ := State.handOver_frame s r; rw [h]
@[simp] theorem State.handOver_notices (r : Completion) : (s.handOver r).notices = s.notices := by
  obtain ⟨_, h⟩ := State.handOver_frame s r; rw [h]
@[simp] theorem State.handOver_slotDirty (r : Completion) : (s.handOver r).slotDirty = s.slotDirty := by
  obtain ⟨_, h⟩ := State.handOver_frame s r; rw [h]
@[simp] theorem State.handOver_ringDirty (r : Completion) : (s.handOver r).ringDirty = s.ringDirty := by
  obtain ⟨_, h⟩ := State.handOver_frame s r; rw [h]
@[simp] theorem State.handOver_vectorPending (r : Completion) : (s.handOver r).vectorPending = s.vectorPending := by
  obtain ⟨_, h⟩ := State.handOver_frame s r; rw [h]
@[simp] theorem State.handOver_vectorMasked (r : Completion) : (s.handOver r).vectorMasked = s.vectorMasked := by
  obtain ⟨_, h⟩ := State.handOver_frame s r; rw [h]
@[simp] theorem State.handOver_messagesSent (r : Completion) : (s.handOver r).messagesSent = s.messagesSent := by
  obtain ⟨_, h⟩ := State.handOver_frame s r; rw [h]
@[simp] theorem State.handOver_freeCount (r : Completion) : (s.handOver r).freeCount = s.freeCount := by
  obtain ⟨_, h⟩ := State.handOver_frame s r; rw [h]
@[simp] theorem State.handOver_halted (r : Completion) : (s.handOver r).halted = s.halted := by simp [State.halted]
@[simp] theorem State.handOver_slot (r : Completion) (k : SlotId) : (s.handOver r).slot k = s.slot k := by simp [State.slot]
@[simp] theorem State.handOver_engine (r : Completion) (k : SlotId) : (s.handOver r).engine k = s.engine k := by simp [State.engine]
@[simp] theorem State.handOver_ring (r : Completion) (k : RingId) : (s.handOver r).ring k = s.ring k := by simp [State.ring]
@[simp] theorem State.handOver_waitOrder (r : Completion) (k : SlotId) : (s.handOver r).waitOrder k = s.waitOrder k := by simp [State.waitOrder]
@[simp] theorem State.handOver_dirtySlot (r : Completion) (k : SlotId) : (s.handOver r).dirtySlot k = s.dirtySlot k := by simp [State.dirtySlot]
@[simp] theorem State.handOver_dirtyRing (r : Completion) (k : RingId) : (s.handOver r).dirtyRing k = s.dirtyRing k := by simp [State.dirtyRing]
@[simp] theorem State.handOver_vecPending (r : Completion) (k : VectorId) : (s.handOver r).vecPending k = s.vecPending k := by simp [State.vecPending]
@[simp] theorem State.handOver_vecMasked (r : Completion) (k : VectorId) : (s.handOver r).vecMasked k = s.vecMasked k := by simp [State.vecMasked]
@[simp] theorem State.handOver_msgCount (r : Completion) (k : VectorId) : (s.handOver r).msgCount k = s.msgCount k := by simp [State.msgCount]

@[simp] theorem State.handAll_pending (rs : List Completion) : (s.handAll rs).pending = s.pending := by
  obtain ⟨_, h⟩ := State.handAll_frame s rs; rw [h]
@[simp] theorem State.handAll_condition (rs : List Completion) : (s.handAll rs).condition = s.condition := by
  obtain ⟨_, h⟩ := State.handAll_frame s rs; rw [h]
@[simp] theorem State.handAll_intEnable (rs : List Completion) : (s.handAll rs).intEnable = s.intEnable := by
  obtain ⟨_, h⟩ := State.handAll_frame s rs; rw [h]
@[simp] theorem State.handAll_haltCause (rs : List Completion) : (s.handAll rs).haltCause = s.haltCause := by
  obtain ⟨_, h⟩ := State.handAll_frame s rs; rw [h]
@[simp] theorem State.handAll_postError (rs : List Completion) : (s.handAll rs).postError = s.postError := by
  obtain ⟨_, h⟩ := State.handAll_frame s rs; rw [h]
@[simp] theorem State.handAll_startLo (rs : List Completion) : (s.handAll rs).startLo = s.startLo := by
  obtain ⟨_, h⟩ := State.handAll_frame s rs; rw [h]
@[simp] theorem State.handAll_startHi (rs : List Completion) : (s.handAll rs).startHi = s.startHi := by
  obtain ⟨_, h⟩ := State.handAll_frame s rs; rw [h]
@[simp] theorem State.handAll_startCopy (rs : List Completion) : (s.handAll rs).startCopy = s.startCopy := by
  obtain ⟨_, h⟩ := State.handAll_frame s rs; rw [h]
@[simp] theorem State.handAll_startRead (rs : List Completion) : (s.handAll rs).startRead = s.startRead := by
  obtain ⟨_, h⟩ := State.handAll_frame s rs; rw [h]
@[simp] theorem State.handAll_startMoot (rs : List Completion) : (s.handAll rs).startMoot = s.startMoot := by
  obtain ⟨_, h⟩ := State.handAll_frame s rs; rw [h]
@[simp] theorem State.handAll_laneFitted (rs : List Completion) : (s.handAll rs).laneFitted = s.laneFitted := by
  obtain ⟨_, h⟩ := State.handAll_frame s rs; rw [h]
@[simp] theorem State.handAll_inReset (rs : List Completion) : (s.handAll rs).inReset = s.inReset := by
  obtain ⟨_, h⟩ := State.handAll_frame s rs; rw [h]
@[simp] theorem State.handAll_readData (rs : List Completion) : (s.handAll rs).readData = s.readData := by
  obtain ⟨_, h⟩ := State.handAll_frame s rs; rw [h]
@[simp] theorem State.handAll_slots (rs : List Completion) : (s.handAll rs).slots = s.slots := by
  obtain ⟨_, h⟩ := State.handAll_frame s rs; rw [h]
@[simp] theorem State.handAll_engines (rs : List Completion) : (s.handAll rs).engines = s.engines := by
  obtain ⟨_, h⟩ := State.handAll_frame s rs; rw [h]
@[simp] theorem State.handAll_rings (rs : List Completion) : (s.handAll rs).rings = s.rings := by
  obtain ⟨_, h⟩ := State.handAll_frame s rs; rw [h]
@[simp] theorem State.handAll_roundRobin (rs : List Completion) : (s.handAll rs).roundRobin = s.roundRobin := by
  obtain ⟨_, h⟩ := State.handAll_frame s rs; rw [h]
@[simp] theorem State.handAll_recordRead (rs : List Completion) : (s.handAll rs).recordRead = s.recordRead := by
  obtain ⟨_, h⟩ := State.handAll_frame s rs; rw [h]
@[simp] theorem State.handAll_waitOrders (rs : List Completion) : (s.handAll rs).waitOrders = s.waitOrders := by
  obtain ⟨_, h⟩ := State.handAll_frame s rs; rw [h]
@[simp] theorem State.handAll_control (rs : List Completion) : (s.handAll rs).control = s.control := by
  obtain ⟨_, h⟩ := State.handAll_frame s rs; rw [h]
@[simp] theorem State.handAll_snapshotWrite (rs : List Completion) : (s.handAll rs).snapshotWrite = s.snapshotWrite := by
  obtain ⟨_, h⟩ := State.handAll_frame s rs; rw [h]
@[simp] theorem State.handAll_deferred (rs : List Completion) : (s.handAll rs).deferred = s.deferred := by
  obtain ⟨_, h⟩ := State.handAll_frame s rs; rw [h]
@[simp] theorem State.handAll_locks (rs : List Completion) : (s.handAll rs).locks = s.locks := by
  obtain ⟨_, h⟩ := State.handAll_frame s rs; rw [h]
@[simp] theorem State.handAll_lane (rs : List Completion) : (s.handAll rs).lane = s.lane := by
  obtain ⟨_, h⟩ := State.handAll_frame s rs; rw [h]
@[simp] theorem State.handAll_notices (rs : List Completion) : (s.handAll rs).notices = s.notices := by
  obtain ⟨_, h⟩ := State.handAll_frame s rs; rw [h]
@[simp] theorem State.handAll_slotDirty (rs : List Completion) : (s.handAll rs).slotDirty = s.slotDirty := by
  obtain ⟨_, h⟩ := State.handAll_frame s rs; rw [h]
@[simp] theorem State.handAll_ringDirty (rs : List Completion) : (s.handAll rs).ringDirty = s.ringDirty := by
  obtain ⟨_, h⟩ := State.handAll_frame s rs; rw [h]
@[simp] theorem State.handAll_vectorPending (rs : List Completion) : (s.handAll rs).vectorPending = s.vectorPending := by
  obtain ⟨_, h⟩ := State.handAll_frame s rs; rw [h]
@[simp] theorem State.handAll_vectorMasked (rs : List Completion) : (s.handAll rs).vectorMasked = s.vectorMasked := by
  obtain ⟨_, h⟩ := State.handAll_frame s rs; rw [h]
@[simp] theorem State.handAll_messagesSent (rs : List Completion) : (s.handAll rs).messagesSent = s.messagesSent := by
  obtain ⟨_, h⟩ := State.handAll_frame s rs; rw [h]
@[simp] theorem State.handAll_freeCount (rs : List Completion) : (s.handAll rs).freeCount = s.freeCount := by
  obtain ⟨_, h⟩ := State.handAll_frame s rs; rw [h]
@[simp] theorem State.handAll_halted (rs : List Completion) : (s.handAll rs).halted = s.halted := by simp [State.halted]
@[simp] theorem State.handAll_slot (rs : List Completion) (k : SlotId) : (s.handAll rs).slot k = s.slot k := by simp [State.slot]
@[simp] theorem State.handAll_engine (rs : List Completion) (k : SlotId) : (s.handAll rs).engine k = s.engine k := by simp [State.engine]
@[simp] theorem State.handAll_ring (rs : List Completion) (k : RingId) : (s.handAll rs).ring k = s.ring k := by simp [State.ring]
@[simp] theorem State.handAll_waitOrder (rs : List Completion) (k : SlotId) : (s.handAll rs).waitOrder k = s.waitOrder k := by simp [State.waitOrder]
@[simp] theorem State.handAll_dirtySlot (rs : List Completion) (k : SlotId) : (s.handAll rs).dirtySlot k = s.dirtySlot k := by simp [State.dirtySlot]
@[simp] theorem State.handAll_dirtyRing (rs : List Completion) (k : RingId) : (s.handAll rs).dirtyRing k = s.dirtyRing k := by simp [State.dirtyRing]
@[simp] theorem State.handAll_vecPending (rs : List Completion) (k : VectorId) : (s.handAll rs).vecPending k = s.vecPending k := by simp [State.vecPending]
@[simp] theorem State.handAll_vecMasked (rs : List Completion) (k : VectorId) : (s.handAll rs).vecMasked k = s.vecMasked k := by simp [State.vecMasked]
@[simp] theorem State.handAll_msgCount (rs : List Completion) (k : VectorId) : (s.handAll rs).msgCount k = s.msgCount k := by simp [State.msgCount]

@[simp] theorem State.handMerged_pending (gs : List (List Completion)) : (s.handMerged gs).pending = s.pending := by
  obtain ⟨_, _, h⟩ := State.handMerged_frame s gs; rw [h]
@[simp] theorem State.handMerged_condition (gs : List (List Completion)) : (s.handMerged gs).condition = s.condition := by
  obtain ⟨_, _, h⟩ := State.handMerged_frame s gs; rw [h]
@[simp] theorem State.handMerged_intEnable (gs : List (List Completion)) : (s.handMerged gs).intEnable = s.intEnable := by
  obtain ⟨_, _, h⟩ := State.handMerged_frame s gs; rw [h]
@[simp] theorem State.handMerged_haltCause (gs : List (List Completion)) : (s.handMerged gs).haltCause = s.haltCause := by
  obtain ⟨_, _, h⟩ := State.handMerged_frame s gs; rw [h]
@[simp] theorem State.handMerged_postError (gs : List (List Completion)) : (s.handMerged gs).postError = s.postError := by
  obtain ⟨_, _, h⟩ := State.handMerged_frame s gs; rw [h]
@[simp] theorem State.handMerged_startLo (gs : List (List Completion)) : (s.handMerged gs).startLo = s.startLo := by
  obtain ⟨_, _, h⟩ := State.handMerged_frame s gs; rw [h]
@[simp] theorem State.handMerged_startHi (gs : List (List Completion)) : (s.handMerged gs).startHi = s.startHi := by
  obtain ⟨_, _, h⟩ := State.handMerged_frame s gs; rw [h]
@[simp] theorem State.handMerged_startCopy (gs : List (List Completion)) : (s.handMerged gs).startCopy = s.startCopy := by
  obtain ⟨_, _, h⟩ := State.handMerged_frame s gs; rw [h]
@[simp] theorem State.handMerged_startRead (gs : List (List Completion)) : (s.handMerged gs).startRead = s.startRead := by
  obtain ⟨_, _, h⟩ := State.handMerged_frame s gs; rw [h]
@[simp] theorem State.handMerged_startMoot (gs : List (List Completion)) : (s.handMerged gs).startMoot = s.startMoot := by
  obtain ⟨_, _, h⟩ := State.handMerged_frame s gs; rw [h]
@[simp] theorem State.handMerged_laneFitted (gs : List (List Completion)) : (s.handMerged gs).laneFitted = s.laneFitted := by
  obtain ⟨_, _, h⟩ := State.handMerged_frame s gs; rw [h]
@[simp] theorem State.handMerged_inReset (gs : List (List Completion)) : (s.handMerged gs).inReset = s.inReset := by
  obtain ⟨_, _, h⟩ := State.handMerged_frame s gs; rw [h]
@[simp] theorem State.handMerged_readData (gs : List (List Completion)) : (s.handMerged gs).readData = s.readData := by
  obtain ⟨_, _, h⟩ := State.handMerged_frame s gs; rw [h]
@[simp] theorem State.handMerged_slots (gs : List (List Completion)) : (s.handMerged gs).slots = s.slots := by
  obtain ⟨_, _, h⟩ := State.handMerged_frame s gs; rw [h]
@[simp] theorem State.handMerged_engines (gs : List (List Completion)) : (s.handMerged gs).engines = s.engines := by
  obtain ⟨_, _, h⟩ := State.handMerged_frame s gs; rw [h]
@[simp] theorem State.handMerged_rings (gs : List (List Completion)) : (s.handMerged gs).rings = s.rings := by
  obtain ⟨_, _, h⟩ := State.handMerged_frame s gs; rw [h]
@[simp] theorem State.handMerged_roundRobin (gs : List (List Completion)) : (s.handMerged gs).roundRobin = s.roundRobin := by
  obtain ⟨_, _, h⟩ := State.handMerged_frame s gs; rw [h]
@[simp] theorem State.handMerged_recordRead (gs : List (List Completion)) : (s.handMerged gs).recordRead = s.recordRead := by
  obtain ⟨_, _, h⟩ := State.handMerged_frame s gs; rw [h]
@[simp] theorem State.handMerged_waitOrders (gs : List (List Completion)) : (s.handMerged gs).waitOrders = s.waitOrders := by
  obtain ⟨_, _, h⟩ := State.handMerged_frame s gs; rw [h]
@[simp] theorem State.handMerged_control (gs : List (List Completion)) : (s.handMerged gs).control = s.control := by
  obtain ⟨_, _, h⟩ := State.handMerged_frame s gs; rw [h]
@[simp] theorem State.handMerged_snapshotWrite (gs : List (List Completion)) : (s.handMerged gs).snapshotWrite = s.snapshotWrite := by
  obtain ⟨_, _, h⟩ := State.handMerged_frame s gs; rw [h]
@[simp] theorem State.handMerged_deferred (gs : List (List Completion)) : (s.handMerged gs).deferred = s.deferred := by
  obtain ⟨_, _, h⟩ := State.handMerged_frame s gs; rw [h]
@[simp] theorem State.handMerged_locks (gs : List (List Completion)) : (s.handMerged gs).locks = s.locks := by
  obtain ⟨_, _, h⟩ := State.handMerged_frame s gs; rw [h]
@[simp] theorem State.handMerged_lane (gs : List (List Completion)) : (s.handMerged gs).lane = s.lane := by
  obtain ⟨_, _, h⟩ := State.handMerged_frame s gs; rw [h]
@[simp] theorem State.handMerged_notices (gs : List (List Completion)) : (s.handMerged gs).notices = s.notices := by
  obtain ⟨_, _, h⟩ := State.handMerged_frame s gs; rw [h]
@[simp] theorem State.handMerged_slotDirty (gs : List (List Completion)) : (s.handMerged gs).slotDirty = s.slotDirty := by
  obtain ⟨_, _, h⟩ := State.handMerged_frame s gs; rw [h]
@[simp] theorem State.handMerged_ringDirty (gs : List (List Completion)) : (s.handMerged gs).ringDirty = s.ringDirty := by
  obtain ⟨_, _, h⟩ := State.handMerged_frame s gs; rw [h]
@[simp] theorem State.handMerged_vectorPending (gs : List (List Completion)) : (s.handMerged gs).vectorPending = s.vectorPending := by
  obtain ⟨_, _, h⟩ := State.handMerged_frame s gs; rw [h]
@[simp] theorem State.handMerged_vectorMasked (gs : List (List Completion)) : (s.handMerged gs).vectorMasked = s.vectorMasked := by
  obtain ⟨_, _, h⟩ := State.handMerged_frame s gs; rw [h]
@[simp] theorem State.handMerged_messagesSent (gs : List (List Completion)) : (s.handMerged gs).messagesSent = s.messagesSent := by
  obtain ⟨_, _, h⟩ := State.handMerged_frame s gs; rw [h]
@[simp] theorem State.handMerged_halted (gs : List (List Completion)) : (s.handMerged gs).halted = s.halted := by simp [State.halted]
@[simp] theorem State.handMerged_slot (gs : List (List Completion)) (k : SlotId) : (s.handMerged gs).slot k = s.slot k := by simp [State.slot]
@[simp] theorem State.handMerged_engine (gs : List (List Completion)) (k : SlotId) : (s.handMerged gs).engine k = s.engine k := by simp [State.engine]
@[simp] theorem State.handMerged_ring (gs : List (List Completion)) (k : RingId) : (s.handMerged gs).ring k = s.ring k := by simp [State.ring]
@[simp] theorem State.handMerged_waitOrder (gs : List (List Completion)) (k : SlotId) : (s.handMerged gs).waitOrder k = s.waitOrder k := by simp [State.waitOrder]
@[simp] theorem State.handMerged_dirtySlot (gs : List (List Completion)) (k : SlotId) : (s.handMerged gs).dirtySlot k = s.dirtySlot k := by simp [State.dirtySlot]
@[simp] theorem State.handMerged_dirtyRing (gs : List (List Completion)) (k : RingId) : (s.handMerged gs).dirtyRing k = s.dirtyRing k := by simp [State.dirtyRing]
@[simp] theorem State.handMerged_vecPending (gs : List (List Completion)) (k : VectorId) : (s.handMerged gs).vecPending k = s.vecPending k := by simp [State.vecPending]
@[simp] theorem State.handMerged_vecMasked (gs : List (List Completion)) (k : VectorId) : (s.handMerged gs).vecMasked k = s.vecMasked k := by simp [State.vecMasked]
@[simp] theorem State.handMerged_msgCount (gs : List (List Completion)) (k : VectorId) : (s.handMerged gs).msgCount k = s.msgCount k := by simp [State.msgCount]

@[simp] theorem State.returnReservation_pending (r : RingId) : (s.returnReservation r).pending = s.pending := by
  obtain ⟨_, h⟩ := State.returnReservation_frame s r; rw [h]
@[simp] theorem State.returnReservation_condition (r : RingId) : (s.returnReservation r).condition = s.condition := by
  obtain ⟨_, h⟩ := State.returnReservation_frame s r; rw [h]
@[simp] theorem State.returnReservation_intEnable (r : RingId) : (s.returnReservation r).intEnable = s.intEnable := by
  obtain ⟨_, h⟩ := State.returnReservation_frame s r; rw [h]
@[simp] theorem State.returnReservation_haltCause (r : RingId) : (s.returnReservation r).haltCause = s.haltCause := by
  obtain ⟨_, h⟩ := State.returnReservation_frame s r; rw [h]
@[simp] theorem State.returnReservation_postError (r : RingId) : (s.returnReservation r).postError = s.postError := by
  obtain ⟨_, h⟩ := State.returnReservation_frame s r; rw [h]
@[simp] theorem State.returnReservation_startLo (r : RingId) : (s.returnReservation r).startLo = s.startLo := by
  obtain ⟨_, h⟩ := State.returnReservation_frame s r; rw [h]
@[simp] theorem State.returnReservation_startHi (r : RingId) : (s.returnReservation r).startHi = s.startHi := by
  obtain ⟨_, h⟩ := State.returnReservation_frame s r; rw [h]
@[simp] theorem State.returnReservation_startCopy (r : RingId) : (s.returnReservation r).startCopy = s.startCopy := by
  obtain ⟨_, h⟩ := State.returnReservation_frame s r; rw [h]
@[simp] theorem State.returnReservation_startRead (r : RingId) : (s.returnReservation r).startRead = s.startRead := by
  obtain ⟨_, h⟩ := State.returnReservation_frame s r; rw [h]
@[simp] theorem State.returnReservation_startMoot (r : RingId) : (s.returnReservation r).startMoot = s.startMoot := by
  obtain ⟨_, h⟩ := State.returnReservation_frame s r; rw [h]
@[simp] theorem State.returnReservation_laneFitted (r : RingId) : (s.returnReservation r).laneFitted = s.laneFitted := by
  obtain ⟨_, h⟩ := State.returnReservation_frame s r; rw [h]
@[simp] theorem State.returnReservation_inReset (r : RingId) : (s.returnReservation r).inReset = s.inReset := by
  obtain ⟨_, h⟩ := State.returnReservation_frame s r; rw [h]
@[simp] theorem State.returnReservation_readData (r : RingId) : (s.returnReservation r).readData = s.readData := by
  obtain ⟨_, h⟩ := State.returnReservation_frame s r; rw [h]
@[simp] theorem State.returnReservation_slots (r : RingId) : (s.returnReservation r).slots = s.slots := by
  obtain ⟨_, h⟩ := State.returnReservation_frame s r; rw [h]
@[simp] theorem State.returnReservation_engines (r : RingId) : (s.returnReservation r).engines = s.engines := by
  obtain ⟨_, h⟩ := State.returnReservation_frame s r; rw [h]
@[simp] theorem State.returnReservation_rings (r : RingId) : (s.returnReservation r).rings = s.rings := by
  obtain ⟨_, h⟩ := State.returnReservation_frame s r; rw [h]
@[simp] theorem State.returnReservation_roundRobin (r : RingId) : (s.returnReservation r).roundRobin = s.roundRobin := by
  obtain ⟨_, h⟩ := State.returnReservation_frame s r; rw [h]
@[simp] theorem State.returnReservation_recordRead (r : RingId) : (s.returnReservation r).recordRead = s.recordRead := by
  obtain ⟨_, h⟩ := State.returnReservation_frame s r; rw [h]
@[simp] theorem State.returnReservation_waitOrders (r : RingId) : (s.returnReservation r).waitOrders = s.waitOrders := by
  obtain ⟨_, h⟩ := State.returnReservation_frame s r; rw [h]
@[simp] theorem State.returnReservation_control (r : RingId) : (s.returnReservation r).control = s.control := by
  obtain ⟨_, h⟩ := State.returnReservation_frame s r; rw [h]
@[simp] theorem State.returnReservation_snapshotWrite (r : RingId) : (s.returnReservation r).snapshotWrite = s.snapshotWrite := by
  obtain ⟨_, h⟩ := State.returnReservation_frame s r; rw [h]
@[simp] theorem State.returnReservation_deferred (r : RingId) : (s.returnReservation r).deferred = s.deferred := by
  obtain ⟨_, h⟩ := State.returnReservation_frame s r; rw [h]
@[simp] theorem State.returnReservation_locks (r : RingId) : (s.returnReservation r).locks = s.locks := by
  obtain ⟨_, h⟩ := State.returnReservation_frame s r; rw [h]
@[simp] theorem State.returnReservation_lane (r : RingId) : (s.returnReservation r).lane = s.lane := by
  obtain ⟨_, h⟩ := State.returnReservation_frame s r; rw [h]
@[simp] theorem State.returnReservation_notices (r : RingId) : (s.returnReservation r).notices = s.notices := by
  obtain ⟨_, h⟩ := State.returnReservation_frame s r; rw [h]
@[simp] theorem State.returnReservation_slotDirty (r : RingId) : (s.returnReservation r).slotDirty = s.slotDirty := by
  obtain ⟨_, h⟩ := State.returnReservation_frame s r; rw [h]
@[simp] theorem State.returnReservation_ringDirty (r : RingId) : (s.returnReservation r).ringDirty = s.ringDirty := by
  obtain ⟨_, h⟩ := State.returnReservation_frame s r; rw [h]
@[simp] theorem State.returnReservation_vectorPending (r : RingId) : (s.returnReservation r).vectorPending = s.vectorPending := by
  obtain ⟨_, h⟩ := State.returnReservation_frame s r; rw [h]
@[simp] theorem State.returnReservation_vectorMasked (r : RingId) : (s.returnReservation r).vectorMasked = s.vectorMasked := by
  obtain ⟨_, h⟩ := State.returnReservation_frame s r; rw [h]
@[simp] theorem State.returnReservation_messagesSent (r : RingId) : (s.returnReservation r).messagesSent = s.messagesSent := by
  obtain ⟨_, h⟩ := State.returnReservation_frame s r; rw [h]
@[simp] theorem State.returnReservation_freeCount (r : RingId) : (s.returnReservation r).freeCount = s.freeCount := by
  obtain ⟨_, h⟩ := State.returnReservation_frame s r; rw [h]
@[simp] theorem State.returnReservation_halted (r : RingId) : (s.returnReservation r).halted = s.halted := by simp [State.halted]
@[simp] theorem State.returnReservation_slot (r : RingId) (k : SlotId) : (s.returnReservation r).slot k = s.slot k := by simp [State.slot]
@[simp] theorem State.returnReservation_engine (r : RingId) (k : SlotId) : (s.returnReservation r).engine k = s.engine k := by simp [State.engine]
@[simp] theorem State.returnReservation_ring (r : RingId) (k : RingId) : (s.returnReservation r).ring k = s.ring k := by simp [State.ring]
@[simp] theorem State.returnReservation_waitOrder (r : RingId) (k : SlotId) : (s.returnReservation r).waitOrder k = s.waitOrder k := by simp [State.waitOrder]
@[simp] theorem State.returnReservation_dirtySlot (r : RingId) (k : SlotId) : (s.returnReservation r).dirtySlot k = s.dirtySlot k := by simp [State.dirtySlot]
@[simp] theorem State.returnReservation_dirtyRing (r : RingId) (k : RingId) : (s.returnReservation r).dirtyRing k = s.dirtyRing k := by simp [State.dirtyRing]
@[simp] theorem State.returnReservation_vecPending (r : RingId) (k : VectorId) : (s.returnReservation r).vecPending k = s.vecPending k := by simp [State.vecPending]
@[simp] theorem State.returnReservation_vecMasked (r : RingId) (k : VectorId) : (s.returnReservation r).vecMasked k = s.vecMasked k := by simp [State.vecMasked]
@[simp] theorem State.returnReservation_msgCount (r : RingId) (k : VectorId) : (s.returnReservation r).msgCount k = s.msgCount k := by simp [State.msgCount]

@[simp] theorem State.drainDirty_pending : (s.drainDirty).pending = s.pending := by
  obtain ⟨_, _, _, h⟩ := State.drainDirty_frame s; rw [h]
@[simp] theorem State.drainDirty_condition : (s.drainDirty).condition = s.condition := by
  obtain ⟨_, _, _, h⟩ := State.drainDirty_frame s; rw [h]
@[simp] theorem State.drainDirty_intEnable : (s.drainDirty).intEnable = s.intEnable := by
  obtain ⟨_, _, _, h⟩ := State.drainDirty_frame s; rw [h]
@[simp] theorem State.drainDirty_haltCause : (s.drainDirty).haltCause = s.haltCause := by
  obtain ⟨_, _, _, h⟩ := State.drainDirty_frame s; rw [h]
@[simp] theorem State.drainDirty_postError : (s.drainDirty).postError = s.postError := by
  obtain ⟨_, _, _, h⟩ := State.drainDirty_frame s; rw [h]
@[simp] theorem State.drainDirty_startLo : (s.drainDirty).startLo = s.startLo := by
  obtain ⟨_, _, _, h⟩ := State.drainDirty_frame s; rw [h]
@[simp] theorem State.drainDirty_startHi : (s.drainDirty).startHi = s.startHi := by
  obtain ⟨_, _, _, h⟩ := State.drainDirty_frame s; rw [h]
@[simp] theorem State.drainDirty_startCopy : (s.drainDirty).startCopy = s.startCopy := by
  obtain ⟨_, _, _, h⟩ := State.drainDirty_frame s; rw [h]
@[simp] theorem State.drainDirty_startRead : (s.drainDirty).startRead = s.startRead := by
  obtain ⟨_, _, _, h⟩ := State.drainDirty_frame s; rw [h]
@[simp] theorem State.drainDirty_startMoot : (s.drainDirty).startMoot = s.startMoot := by
  obtain ⟨_, _, _, h⟩ := State.drainDirty_frame s; rw [h]
@[simp] theorem State.drainDirty_laneFitted : (s.drainDirty).laneFitted = s.laneFitted := by
  obtain ⟨_, _, _, h⟩ := State.drainDirty_frame s; rw [h]
@[simp] theorem State.drainDirty_inReset : (s.drainDirty).inReset = s.inReset := by
  obtain ⟨_, _, _, h⟩ := State.drainDirty_frame s; rw [h]
@[simp] theorem State.drainDirty_readData : (s.drainDirty).readData = s.readData := by
  obtain ⟨_, _, _, h⟩ := State.drainDirty_frame s; rw [h]
@[simp] theorem State.drainDirty_slots : (s.drainDirty).slots = s.slots := by
  obtain ⟨_, _, _, h⟩ := State.drainDirty_frame s; rw [h]
@[simp] theorem State.drainDirty_engines : (s.drainDirty).engines = s.engines := by
  obtain ⟨_, _, _, h⟩ := State.drainDirty_frame s; rw [h]
@[simp] theorem State.drainDirty_rings : (s.drainDirty).rings = s.rings := by
  obtain ⟨_, _, _, h⟩ := State.drainDirty_frame s; rw [h]
@[simp] theorem State.drainDirty_roundRobin : (s.drainDirty).roundRobin = s.roundRobin := by
  obtain ⟨_, _, _, h⟩ := State.drainDirty_frame s; rw [h]
@[simp] theorem State.drainDirty_recordRead : (s.drainDirty).recordRead = s.recordRead := by
  obtain ⟨_, _, _, h⟩ := State.drainDirty_frame s; rw [h]
@[simp] theorem State.drainDirty_waitOrders : (s.drainDirty).waitOrders = s.waitOrders := by
  obtain ⟨_, _, _, h⟩ := State.drainDirty_frame s; rw [h]
@[simp] theorem State.drainDirty_control : (s.drainDirty).control = s.control := by
  obtain ⟨_, _, _, h⟩ := State.drainDirty_frame s; rw [h]
@[simp] theorem State.drainDirty_snapshotWrite : (s.drainDirty).snapshotWrite = s.snapshotWrite := by
  obtain ⟨_, _, _, h⟩ := State.drainDirty_frame s; rw [h]
@[simp] theorem State.drainDirty_deferred : (s.drainDirty).deferred = s.deferred := by
  obtain ⟨_, _, _, h⟩ := State.drainDirty_frame s; rw [h]
@[simp] theorem State.drainDirty_locks : (s.drainDirty).locks = s.locks := by
  obtain ⟨_, _, _, h⟩ := State.drainDirty_frame s; rw [h]
@[simp] theorem State.drainDirty_lane : (s.drainDirty).lane = s.lane := by
  obtain ⟨_, _, _, h⟩ := State.drainDirty_frame s; rw [h]
@[simp] theorem State.drainDirty_compRings : (s.drainDirty).compRings = s.compRings := by
  obtain ⟨_, _, _, h⟩ := State.drainDirty_frame s; rw [h]
@[simp] theorem State.drainDirty_vectorPending : (s.drainDirty).vectorPending = s.vectorPending := by
  obtain ⟨_, _, _, h⟩ := State.drainDirty_frame s; rw [h]
@[simp] theorem State.drainDirty_vectorMasked : (s.drainDirty).vectorMasked = s.vectorMasked := by
  obtain ⟨_, _, _, h⟩ := State.drainDirty_frame s; rw [h]
@[simp] theorem State.drainDirty_messagesSent : (s.drainDirty).messagesSent = s.messagesSent := by
  obtain ⟨_, _, _, h⟩ := State.drainDirty_frame s; rw [h]
@[simp] theorem State.drainDirty_freeCount : (s.drainDirty).freeCount = s.freeCount := by
  obtain ⟨_, _, _, h⟩ := State.drainDirty_frame s; rw [h]
@[simp] theorem State.drainDirty_halted : (s.drainDirty).halted = s.halted := by simp [State.halted]
@[simp] theorem State.drainDirty_slot (k : SlotId) : (s.drainDirty).slot k = s.slot k := by simp [State.slot]
@[simp] theorem State.drainDirty_engine (k : SlotId) : (s.drainDirty).engine k = s.engine k := by simp [State.engine]
@[simp] theorem State.drainDirty_ring (k : RingId) : (s.drainDirty).ring k = s.ring k := by simp [State.ring]
@[simp] theorem State.drainDirty_comp (k : CompRingId) : (s.drainDirty).comp k = s.comp k := by simp [State.comp]
@[simp] theorem State.drainDirty_waitOrder (k : SlotId) : (s.drainDirty).waitOrder k = s.waitOrder k := by simp [State.waitOrder]
@[simp] theorem State.drainDirty_vecPending (k : VectorId) : (s.drainDirty).vecPending k = s.vecPending k := by simp [State.vecPending]
@[simp] theorem State.drainDirty_vecMasked (k : VectorId) : (s.drainDirty).vecMasked k = s.vecMasked k := by simp [State.vecMasked]
@[simp] theorem State.drainDirty_msgCount (k : VectorId) : (s.drainDirty).msgCount k = s.msgCount k := by simp [State.msgCount]

@[simp] theorem State.notify_pending (p : Report) : (s.notify p).pending = s.pending := by
  obtain ⟨_, _, _, h⟩ := State.notify_frame s p; rw [h]
@[simp] theorem State.notify_condition (p : Report) : (s.notify p).condition = s.condition := by
  obtain ⟨_, _, _, h⟩ := State.notify_frame s p; rw [h]
@[simp] theorem State.notify_intEnable (p : Report) : (s.notify p).intEnable = s.intEnable := by
  obtain ⟨_, _, _, h⟩ := State.notify_frame s p; rw [h]
@[simp] theorem State.notify_haltCause (p : Report) : (s.notify p).haltCause = s.haltCause := by
  obtain ⟨_, _, _, h⟩ := State.notify_frame s p; rw [h]
@[simp] theorem State.notify_postError (p : Report) : (s.notify p).postError = s.postError := by
  obtain ⟨_, _, _, h⟩ := State.notify_frame s p; rw [h]
@[simp] theorem State.notify_startLo (p : Report) : (s.notify p).startLo = s.startLo := by
  obtain ⟨_, _, _, h⟩ := State.notify_frame s p; rw [h]
@[simp] theorem State.notify_startHi (p : Report) : (s.notify p).startHi = s.startHi := by
  obtain ⟨_, _, _, h⟩ := State.notify_frame s p; rw [h]
@[simp] theorem State.notify_startCopy (p : Report) : (s.notify p).startCopy = s.startCopy := by
  obtain ⟨_, _, _, h⟩ := State.notify_frame s p; rw [h]
@[simp] theorem State.notify_startRead (p : Report) : (s.notify p).startRead = s.startRead := by
  obtain ⟨_, _, _, h⟩ := State.notify_frame s p; rw [h]
@[simp] theorem State.notify_startMoot (p : Report) : (s.notify p).startMoot = s.startMoot := by
  obtain ⟨_, _, _, h⟩ := State.notify_frame s p; rw [h]
@[simp] theorem State.notify_laneFitted (p : Report) : (s.notify p).laneFitted = s.laneFitted := by
  obtain ⟨_, _, _, h⟩ := State.notify_frame s p; rw [h]
@[simp] theorem State.notify_inReset (p : Report) : (s.notify p).inReset = s.inReset := by
  obtain ⟨_, _, _, h⟩ := State.notify_frame s p; rw [h]
@[simp] theorem State.notify_readData (p : Report) : (s.notify p).readData = s.readData := by
  obtain ⟨_, _, _, h⟩ := State.notify_frame s p; rw [h]
@[simp] theorem State.notify_slots (p : Report) : (s.notify p).slots = s.slots := by
  obtain ⟨_, _, _, h⟩ := State.notify_frame s p; rw [h]
@[simp] theorem State.notify_engines (p : Report) : (s.notify p).engines = s.engines := by
  obtain ⟨_, _, _, h⟩ := State.notify_frame s p; rw [h]
@[simp] theorem State.notify_rings (p : Report) : (s.notify p).rings = s.rings := by
  obtain ⟨_, _, _, h⟩ := State.notify_frame s p; rw [h]
@[simp] theorem State.notify_roundRobin (p : Report) : (s.notify p).roundRobin = s.roundRobin := by
  obtain ⟨_, _, _, h⟩ := State.notify_frame s p; rw [h]
@[simp] theorem State.notify_recordRead (p : Report) : (s.notify p).recordRead = s.recordRead := by
  obtain ⟨_, _, _, h⟩ := State.notify_frame s p; rw [h]
@[simp] theorem State.notify_waitOrders (p : Report) : (s.notify p).waitOrders = s.waitOrders := by
  obtain ⟨_, _, _, h⟩ := State.notify_frame s p; rw [h]
@[simp] theorem State.notify_control (p : Report) : (s.notify p).control = s.control := by
  obtain ⟨_, _, _, h⟩ := State.notify_frame s p; rw [h]
@[simp] theorem State.notify_snapshotWrite (p : Report) : (s.notify p).snapshotWrite = s.snapshotWrite := by
  obtain ⟨_, _, _, h⟩ := State.notify_frame s p; rw [h]
@[simp] theorem State.notify_deferred (p : Report) : (s.notify p).deferred = s.deferred := by
  obtain ⟨_, _, _, h⟩ := State.notify_frame s p; rw [h]
@[simp] theorem State.notify_locks (p : Report) : (s.notify p).locks = s.locks := by
  obtain ⟨_, _, _, h⟩ := State.notify_frame s p; rw [h]
@[simp] theorem State.notify_lane (p : Report) : (s.notify p).lane = s.lane := by
  obtain ⟨_, _, _, h⟩ := State.notify_frame s p; rw [h]
@[simp] theorem State.notify_compRings (p : Report) : (s.notify p).compRings = s.compRings := by
  obtain ⟨_, _, _, h⟩ := State.notify_frame s p; rw [h]
@[simp] theorem State.notify_vectorPending (p : Report) : (s.notify p).vectorPending = s.vectorPending := by
  obtain ⟨_, _, _, h⟩ := State.notify_frame s p; rw [h]
@[simp] theorem State.notify_vectorMasked (p : Report) : (s.notify p).vectorMasked = s.vectorMasked := by
  obtain ⟨_, _, _, h⟩ := State.notify_frame s p; rw [h]
@[simp] theorem State.notify_messagesSent (p : Report) : (s.notify p).messagesSent = s.messagesSent := by
  obtain ⟨_, _, _, h⟩ := State.notify_frame s p; rw [h]
@[simp] theorem State.notify_freeCount (p : Report) : (s.notify p).freeCount = s.freeCount := by
  obtain ⟨_, _, _, h⟩ := State.notify_frame s p; rw [h]
@[simp] theorem State.notify_halted (p : Report) : (s.notify p).halted = s.halted := by simp [State.halted]
@[simp] theorem State.notify_slot (p : Report) (k : SlotId) : (s.notify p).slot k = s.slot k := by simp [State.slot]
@[simp] theorem State.notify_engine (p : Report) (k : SlotId) : (s.notify p).engine k = s.engine k := by simp [State.engine]
@[simp] theorem State.notify_ring (p : Report) (k : RingId) : (s.notify p).ring k = s.ring k := by simp [State.ring]
@[simp] theorem State.notify_comp (p : Report) (k : CompRingId) : (s.notify p).comp k = s.comp k := by simp [State.comp]
@[simp] theorem State.notify_waitOrder (p : Report) (k : SlotId) : (s.notify p).waitOrder k = s.waitOrder k := by simp [State.waitOrder]
@[simp] theorem State.notify_vecPending (p : Report) (k : VectorId) : (s.notify p).vecPending k = s.vecPending k := by simp [State.vecPending]
@[simp] theorem State.notify_vecMasked (p : Report) (k : VectorId) : (s.notify p).vecMasked k = s.vecMasked k := by simp [State.vecMasked]
@[simp] theorem State.notify_msgCount (p : Report) (k : VectorId) : (s.notify p).msgCount k = s.msgCount k := by simp [State.msgCount]

@[simp] theorem State.notifyState_pending (n : SlotId) : (s.notifyState n).pending = s.pending := by
  obtain ⟨_, _, _, h⟩ := State.notifyState_frame s n; rw [h]
@[simp] theorem State.notifyState_condition (n : SlotId) : (s.notifyState n).condition = s.condition := by
  obtain ⟨_, _, _, h⟩ := State.notifyState_frame s n; rw [h]
@[simp] theorem State.notifyState_intEnable (n : SlotId) : (s.notifyState n).intEnable = s.intEnable := by
  obtain ⟨_, _, _, h⟩ := State.notifyState_frame s n; rw [h]
@[simp] theorem State.notifyState_haltCause (n : SlotId) : (s.notifyState n).haltCause = s.haltCause := by
  obtain ⟨_, _, _, h⟩ := State.notifyState_frame s n; rw [h]
@[simp] theorem State.notifyState_postError (n : SlotId) : (s.notifyState n).postError = s.postError := by
  obtain ⟨_, _, _, h⟩ := State.notifyState_frame s n; rw [h]
@[simp] theorem State.notifyState_startLo (n : SlotId) : (s.notifyState n).startLo = s.startLo := by
  obtain ⟨_, _, _, h⟩ := State.notifyState_frame s n; rw [h]
@[simp] theorem State.notifyState_startHi (n : SlotId) : (s.notifyState n).startHi = s.startHi := by
  obtain ⟨_, _, _, h⟩ := State.notifyState_frame s n; rw [h]
@[simp] theorem State.notifyState_startCopy (n : SlotId) : (s.notifyState n).startCopy = s.startCopy := by
  obtain ⟨_, _, _, h⟩ := State.notifyState_frame s n; rw [h]
@[simp] theorem State.notifyState_startRead (n : SlotId) : (s.notifyState n).startRead = s.startRead := by
  obtain ⟨_, _, _, h⟩ := State.notifyState_frame s n; rw [h]
@[simp] theorem State.notifyState_startMoot (n : SlotId) : (s.notifyState n).startMoot = s.startMoot := by
  obtain ⟨_, _, _, h⟩ := State.notifyState_frame s n; rw [h]
@[simp] theorem State.notifyState_laneFitted (n : SlotId) : (s.notifyState n).laneFitted = s.laneFitted := by
  obtain ⟨_, _, _, h⟩ := State.notifyState_frame s n; rw [h]
@[simp] theorem State.notifyState_inReset (n : SlotId) : (s.notifyState n).inReset = s.inReset := by
  obtain ⟨_, _, _, h⟩ := State.notifyState_frame s n; rw [h]
@[simp] theorem State.notifyState_readData (n : SlotId) : (s.notifyState n).readData = s.readData := by
  obtain ⟨_, _, _, h⟩ := State.notifyState_frame s n; rw [h]
@[simp] theorem State.notifyState_slots (n : SlotId) : (s.notifyState n).slots = s.slots := by
  obtain ⟨_, _, _, h⟩ := State.notifyState_frame s n; rw [h]
@[simp] theorem State.notifyState_engines (n : SlotId) : (s.notifyState n).engines = s.engines := by
  obtain ⟨_, _, _, h⟩ := State.notifyState_frame s n; rw [h]
@[simp] theorem State.notifyState_rings (n : SlotId) : (s.notifyState n).rings = s.rings := by
  obtain ⟨_, _, _, h⟩ := State.notifyState_frame s n; rw [h]
@[simp] theorem State.notifyState_roundRobin (n : SlotId) : (s.notifyState n).roundRobin = s.roundRobin := by
  obtain ⟨_, _, _, h⟩ := State.notifyState_frame s n; rw [h]
@[simp] theorem State.notifyState_recordRead (n : SlotId) : (s.notifyState n).recordRead = s.recordRead := by
  obtain ⟨_, _, _, h⟩ := State.notifyState_frame s n; rw [h]
@[simp] theorem State.notifyState_waitOrders (n : SlotId) : (s.notifyState n).waitOrders = s.waitOrders := by
  obtain ⟨_, _, _, h⟩ := State.notifyState_frame s n; rw [h]
@[simp] theorem State.notifyState_control (n : SlotId) : (s.notifyState n).control = s.control := by
  obtain ⟨_, _, _, h⟩ := State.notifyState_frame s n; rw [h]
@[simp] theorem State.notifyState_snapshotWrite (n : SlotId) : (s.notifyState n).snapshotWrite = s.snapshotWrite := by
  obtain ⟨_, _, _, h⟩ := State.notifyState_frame s n; rw [h]
@[simp] theorem State.notifyState_deferred (n : SlotId) : (s.notifyState n).deferred = s.deferred := by
  obtain ⟨_, _, _, h⟩ := State.notifyState_frame s n; rw [h]
@[simp] theorem State.notifyState_locks (n : SlotId) : (s.notifyState n).locks = s.locks := by
  obtain ⟨_, _, _, h⟩ := State.notifyState_frame s n; rw [h]
@[simp] theorem State.notifyState_lane (n : SlotId) : (s.notifyState n).lane = s.lane := by
  obtain ⟨_, _, _, h⟩ := State.notifyState_frame s n; rw [h]
@[simp] theorem State.notifyState_compRings (n : SlotId) : (s.notifyState n).compRings = s.compRings := by
  obtain ⟨_, _, _, h⟩ := State.notifyState_frame s n; rw [h]
@[simp] theorem State.notifyState_vectorPending (n : SlotId) : (s.notifyState n).vectorPending = s.vectorPending := by
  obtain ⟨_, _, _, h⟩ := State.notifyState_frame s n; rw [h]
@[simp] theorem State.notifyState_vectorMasked (n : SlotId) : (s.notifyState n).vectorMasked = s.vectorMasked := by
  obtain ⟨_, _, _, h⟩ := State.notifyState_frame s n; rw [h]
@[simp] theorem State.notifyState_messagesSent (n : SlotId) : (s.notifyState n).messagesSent = s.messagesSent := by
  obtain ⟨_, _, _, h⟩ := State.notifyState_frame s n; rw [h]
@[simp] theorem State.notifyState_freeCount (n : SlotId) : (s.notifyState n).freeCount = s.freeCount := by
  obtain ⟨_, _, _, h⟩ := State.notifyState_frame s n; rw [h]
@[simp] theorem State.notifyState_halted (n : SlotId) : (s.notifyState n).halted = s.halted := by simp [State.halted]
@[simp] theorem State.notifyState_slot (n : SlotId) (k : SlotId) : (s.notifyState n).slot k = s.slot k := by simp [State.slot]
@[simp] theorem State.notifyState_engine (n : SlotId) (k : SlotId) : (s.notifyState n).engine k = s.engine k := by simp [State.engine]
@[simp] theorem State.notifyState_ring (n : SlotId) (k : RingId) : (s.notifyState n).ring k = s.ring k := by simp [State.ring]
@[simp] theorem State.notifyState_comp (n : SlotId) (k : CompRingId) : (s.notifyState n).comp k = s.comp k := by simp [State.comp]
@[simp] theorem State.notifyState_waitOrder (n : SlotId) (k : SlotId) : (s.notifyState n).waitOrder k = s.waitOrder k := by simp [State.waitOrder]
@[simp] theorem State.notifyState_vecPending (n : SlotId) (k : VectorId) : (s.notifyState n).vecPending k = s.vecPending k := by simp [State.vecPending]
@[simp] theorem State.notifyState_vecMasked (n : SlotId) (k : VectorId) : (s.notifyState n).vecMasked k = s.vecMasked k := by simp [State.vecMasked]
@[simp] theorem State.notifyState_msgCount (n : SlotId) (k : VectorId) : (s.notifyState n).msgCount k = s.msgCount k := by simp [State.msgCount]

@[simp] theorem State.refuseWaiting_pending (n : SlotId) : (s.refuseWaiting n).pending = s.pending := by
  obtain ⟨_, _, _, h⟩ := (State.refuseWaiting_spec s n).1; rw [h]
@[simp] theorem State.refuseWaiting_condition (n : SlotId) : (s.refuseWaiting n).condition = s.condition := by
  obtain ⟨_, _, _, h⟩ := (State.refuseWaiting_spec s n).1; rw [h]
@[simp] theorem State.refuseWaiting_intEnable (n : SlotId) : (s.refuseWaiting n).intEnable = s.intEnable := by
  obtain ⟨_, _, _, h⟩ := (State.refuseWaiting_spec s n).1; rw [h]
@[simp] theorem State.refuseWaiting_haltCause (n : SlotId) : (s.refuseWaiting n).haltCause = s.haltCause := by
  obtain ⟨_, _, _, h⟩ := (State.refuseWaiting_spec s n).1; rw [h]
@[simp] theorem State.refuseWaiting_postError (n : SlotId) : (s.refuseWaiting n).postError = s.postError := by
  obtain ⟨_, _, _, h⟩ := (State.refuseWaiting_spec s n).1; rw [h]
@[simp] theorem State.refuseWaiting_startLo (n : SlotId) : (s.refuseWaiting n).startLo = s.startLo := by
  obtain ⟨_, _, _, h⟩ := (State.refuseWaiting_spec s n).1; rw [h]
@[simp] theorem State.refuseWaiting_startHi (n : SlotId) : (s.refuseWaiting n).startHi = s.startHi := by
  obtain ⟨_, _, _, h⟩ := (State.refuseWaiting_spec s n).1; rw [h]
@[simp] theorem State.refuseWaiting_startCopy (n : SlotId) : (s.refuseWaiting n).startCopy = s.startCopy := by
  obtain ⟨_, _, _, h⟩ := (State.refuseWaiting_spec s n).1; rw [h]
@[simp] theorem State.refuseWaiting_startRead (n : SlotId) : (s.refuseWaiting n).startRead = s.startRead := by
  obtain ⟨_, _, _, h⟩ := (State.refuseWaiting_spec s n).1; rw [h]
@[simp] theorem State.refuseWaiting_startMoot (n : SlotId) : (s.refuseWaiting n).startMoot = s.startMoot := by
  obtain ⟨_, _, _, h⟩ := (State.refuseWaiting_spec s n).1; rw [h]
@[simp] theorem State.refuseWaiting_laneFitted (n : SlotId) : (s.refuseWaiting n).laneFitted = s.laneFitted := by
  obtain ⟨_, _, _, h⟩ := (State.refuseWaiting_spec s n).1; rw [h]
@[simp] theorem State.refuseWaiting_inReset (n : SlotId) : (s.refuseWaiting n).inReset = s.inReset := by
  obtain ⟨_, _, _, h⟩ := (State.refuseWaiting_spec s n).1; rw [h]
@[simp] theorem State.refuseWaiting_readData (n : SlotId) : (s.refuseWaiting n).readData = s.readData := by
  obtain ⟨_, _, _, h⟩ := (State.refuseWaiting_spec s n).1; rw [h]
@[simp] theorem State.refuseWaiting_slots (n : SlotId) : (s.refuseWaiting n).slots = s.slots := by
  obtain ⟨_, _, _, h⟩ := (State.refuseWaiting_spec s n).1; rw [h]
@[simp] theorem State.refuseWaiting_engines (n : SlotId) : (s.refuseWaiting n).engines = s.engines := by
  obtain ⟨_, _, _, h⟩ := (State.refuseWaiting_spec s n).1; rw [h]
@[simp] theorem State.refuseWaiting_roundRobin (n : SlotId) : (s.refuseWaiting n).roundRobin = s.roundRobin := by
  obtain ⟨_, _, _, h⟩ := (State.refuseWaiting_spec s n).1; rw [h]
@[simp] theorem State.refuseWaiting_recordRead (n : SlotId) : (s.refuseWaiting n).recordRead = s.recordRead := by
  obtain ⟨_, _, _, h⟩ := (State.refuseWaiting_spec s n).1; rw [h]
@[simp] theorem State.refuseWaiting_control (n : SlotId) : (s.refuseWaiting n).control = s.control := by
  obtain ⟨_, _, _, h⟩ := (State.refuseWaiting_spec s n).1; rw [h]
@[simp] theorem State.refuseWaiting_snapshotWrite (n : SlotId) : (s.refuseWaiting n).snapshotWrite = s.snapshotWrite := by
  obtain ⟨_, _, _, h⟩ := (State.refuseWaiting_spec s n).1; rw [h]
@[simp] theorem State.refuseWaiting_deferred (n : SlotId) : (s.refuseWaiting n).deferred = s.deferred := by
  obtain ⟨_, _, _, h⟩ := (State.refuseWaiting_spec s n).1; rw [h]
@[simp] theorem State.refuseWaiting_locks (n : SlotId) : (s.refuseWaiting n).locks = s.locks := by
  obtain ⟨_, _, _, h⟩ := (State.refuseWaiting_spec s n).1; rw [h]
@[simp] theorem State.refuseWaiting_lane (n : SlotId) : (s.refuseWaiting n).lane = s.lane := by
  obtain ⟨_, _, _, h⟩ := (State.refuseWaiting_spec s n).1; rw [h]
@[simp] theorem State.refuseWaiting_notices (n : SlotId) : (s.refuseWaiting n).notices = s.notices := by
  obtain ⟨_, _, _, h⟩ := (State.refuseWaiting_spec s n).1; rw [h]
@[simp] theorem State.refuseWaiting_slotDirty (n : SlotId) : (s.refuseWaiting n).slotDirty = s.slotDirty := by
  obtain ⟨_, _, _, h⟩ := (State.refuseWaiting_spec s n).1; rw [h]
@[simp] theorem State.refuseWaiting_ringDirty (n : SlotId) : (s.refuseWaiting n).ringDirty = s.ringDirty := by
  obtain ⟨_, _, _, h⟩ := (State.refuseWaiting_spec s n).1; rw [h]
@[simp] theorem State.refuseWaiting_vectorPending (n : SlotId) : (s.refuseWaiting n).vectorPending = s.vectorPending := by
  obtain ⟨_, _, _, h⟩ := (State.refuseWaiting_spec s n).1; rw [h]
@[simp] theorem State.refuseWaiting_vectorMasked (n : SlotId) : (s.refuseWaiting n).vectorMasked = s.vectorMasked := by
  obtain ⟨_, _, _, h⟩ := (State.refuseWaiting_spec s n).1; rw [h]
@[simp] theorem State.refuseWaiting_messagesSent (n : SlotId) : (s.refuseWaiting n).messagesSent = s.messagesSent := by
  obtain ⟨_, _, _, h⟩ := (State.refuseWaiting_spec s n).1; rw [h]
@[simp] theorem State.refuseWaiting_freeCount (n : SlotId) : (s.refuseWaiting n).freeCount = s.freeCount := by
  obtain ⟨_, _, _, h⟩ := (State.refuseWaiting_spec s n).1; rw [h]
@[simp] theorem State.refuseWaiting_halted (n : SlotId) : (s.refuseWaiting n).halted = s.halted := by simp [State.halted]
@[simp] theorem State.refuseWaiting_slot (n : SlotId) (k : SlotId) : (s.refuseWaiting n).slot k = s.slot k := by simp [State.slot]
@[simp] theorem State.refuseWaiting_engine (n : SlotId) (k : SlotId) : (s.refuseWaiting n).engine k = s.engine k := by simp [State.engine]
@[simp] theorem State.refuseWaiting_dirtySlot (n : SlotId) (k : SlotId) : (s.refuseWaiting n).dirtySlot k = s.dirtySlot k := by simp [State.dirtySlot]
@[simp] theorem State.refuseWaiting_dirtyRing (n : SlotId) (k : RingId) : (s.refuseWaiting n).dirtyRing k = s.dirtyRing k := by simp [State.dirtyRing]
@[simp] theorem State.refuseWaiting_vecPending (n : SlotId) (k : VectorId) : (s.refuseWaiting n).vecPending k = s.vecPending k := by simp [State.vecPending]
@[simp] theorem State.refuseWaiting_vecMasked (n : SlotId) (k : VectorId) : (s.refuseWaiting n).vecMasked k = s.vecMasked k := by simp [State.vecMasked]
@[simp] theorem State.refuseWaiting_msgCount (n : SlotId) (k : VectorId) : (s.refuseWaiting n).msgCount k = s.msgCount k := by simp [State.msgCount]

@[simp] theorem State.offerPlaces_pending (n : SlotId) : (s.offerPlaces n).pending = s.pending := by
  obtain ⟨_, _, _, h⟩ := (State.offerPlaces_spec s n).1; rw [h]
@[simp] theorem State.offerPlaces_condition (n : SlotId) : (s.offerPlaces n).condition = s.condition := by
  obtain ⟨_, _, _, h⟩ := (State.offerPlaces_spec s n).1; rw [h]
@[simp] theorem State.offerPlaces_intEnable (n : SlotId) : (s.offerPlaces n).intEnable = s.intEnable := by
  obtain ⟨_, _, _, h⟩ := (State.offerPlaces_spec s n).1; rw [h]
@[simp] theorem State.offerPlaces_haltCause (n : SlotId) : (s.offerPlaces n).haltCause = s.haltCause := by
  obtain ⟨_, _, _, h⟩ := (State.offerPlaces_spec s n).1; rw [h]
@[simp] theorem State.offerPlaces_postError (n : SlotId) : (s.offerPlaces n).postError = s.postError := by
  obtain ⟨_, _, _, h⟩ := (State.offerPlaces_spec s n).1; rw [h]
@[simp] theorem State.offerPlaces_startLo (n : SlotId) : (s.offerPlaces n).startLo = s.startLo := by
  obtain ⟨_, _, _, h⟩ := (State.offerPlaces_spec s n).1; rw [h]
@[simp] theorem State.offerPlaces_startHi (n : SlotId) : (s.offerPlaces n).startHi = s.startHi := by
  obtain ⟨_, _, _, h⟩ := (State.offerPlaces_spec s n).1; rw [h]
@[simp] theorem State.offerPlaces_startCopy (n : SlotId) : (s.offerPlaces n).startCopy = s.startCopy := by
  obtain ⟨_, _, _, h⟩ := (State.offerPlaces_spec s n).1; rw [h]
@[simp] theorem State.offerPlaces_startRead (n : SlotId) : (s.offerPlaces n).startRead = s.startRead := by
  obtain ⟨_, _, _, h⟩ := (State.offerPlaces_spec s n).1; rw [h]
@[simp] theorem State.offerPlaces_startMoot (n : SlotId) : (s.offerPlaces n).startMoot = s.startMoot := by
  obtain ⟨_, _, _, h⟩ := (State.offerPlaces_spec s n).1; rw [h]
@[simp] theorem State.offerPlaces_laneFitted (n : SlotId) : (s.offerPlaces n).laneFitted = s.laneFitted := by
  obtain ⟨_, _, _, h⟩ := (State.offerPlaces_spec s n).1; rw [h]
@[simp] theorem State.offerPlaces_inReset (n : SlotId) : (s.offerPlaces n).inReset = s.inReset := by
  obtain ⟨_, _, _, h⟩ := (State.offerPlaces_spec s n).1; rw [h]
@[simp] theorem State.offerPlaces_readData (n : SlotId) : (s.offerPlaces n).readData = s.readData := by
  obtain ⟨_, _, _, h⟩ := (State.offerPlaces_spec s n).1; rw [h]
@[simp] theorem State.offerPlaces_slots (n : SlotId) : (s.offerPlaces n).slots = s.slots := by
  obtain ⟨_, _, _, h⟩ := (State.offerPlaces_spec s n).1; rw [h]
@[simp] theorem State.offerPlaces_roundRobin (n : SlotId) : (s.offerPlaces n).roundRobin = s.roundRobin := by
  obtain ⟨_, _, _, h⟩ := (State.offerPlaces_spec s n).1; rw [h]
@[simp] theorem State.offerPlaces_recordRead (n : SlotId) : (s.offerPlaces n).recordRead = s.recordRead := by
  obtain ⟨_, _, _, h⟩ := (State.offerPlaces_spec s n).1; rw [h]
@[simp] theorem State.offerPlaces_control (n : SlotId) : (s.offerPlaces n).control = s.control := by
  obtain ⟨_, _, _, h⟩ := (State.offerPlaces_spec s n).1; rw [h]
@[simp] theorem State.offerPlaces_snapshotWrite (n : SlotId) : (s.offerPlaces n).snapshotWrite = s.snapshotWrite := by
  obtain ⟨_, _, _, h⟩ := (State.offerPlaces_spec s n).1; rw [h]
@[simp] theorem State.offerPlaces_deferred (n : SlotId) : (s.offerPlaces n).deferred = s.deferred := by
  obtain ⟨_, _, _, h⟩ := (State.offerPlaces_spec s n).1; rw [h]
@[simp] theorem State.offerPlaces_locks (n : SlotId) : (s.offerPlaces n).locks = s.locks := by
  obtain ⟨_, _, _, h⟩ := (State.offerPlaces_spec s n).1; rw [h]
@[simp] theorem State.offerPlaces_lane (n : SlotId) : (s.offerPlaces n).lane = s.lane := by
  obtain ⟨_, _, _, h⟩ := (State.offerPlaces_spec s n).1; rw [h]
@[simp] theorem State.offerPlaces_compRings (n : SlotId) : (s.offerPlaces n).compRings = s.compRings := by
  obtain ⟨_, _, _, h⟩ := (State.offerPlaces_spec s n).1; rw [h]
@[simp] theorem State.offerPlaces_notices (n : SlotId) : (s.offerPlaces n).notices = s.notices := by
  obtain ⟨_, _, _, h⟩ := (State.offerPlaces_spec s n).1; rw [h]
@[simp] theorem State.offerPlaces_slotDirty (n : SlotId) : (s.offerPlaces n).slotDirty = s.slotDirty := by
  obtain ⟨_, _, _, h⟩ := (State.offerPlaces_spec s n).1; rw [h]
@[simp] theorem State.offerPlaces_ringDirty (n : SlotId) : (s.offerPlaces n).ringDirty = s.ringDirty := by
  obtain ⟨_, _, _, h⟩ := (State.offerPlaces_spec s n).1; rw [h]
@[simp] theorem State.offerPlaces_vectorPending (n : SlotId) : (s.offerPlaces n).vectorPending = s.vectorPending := by
  obtain ⟨_, _, _, h⟩ := (State.offerPlaces_spec s n).1; rw [h]
@[simp] theorem State.offerPlaces_vectorMasked (n : SlotId) : (s.offerPlaces n).vectorMasked = s.vectorMasked := by
  obtain ⟨_, _, _, h⟩ := (State.offerPlaces_spec s n).1; rw [h]
@[simp] theorem State.offerPlaces_messagesSent (n : SlotId) : (s.offerPlaces n).messagesSent = s.messagesSent := by
  obtain ⟨_, _, _, h⟩ := (State.offerPlaces_spec s n).1; rw [h]
@[simp] theorem State.offerPlaces_freeCount (n : SlotId) : (s.offerPlaces n).freeCount = s.freeCount := by
  obtain ⟨_, _, _, h⟩ := (State.offerPlaces_spec s n).1; rw [h]
@[simp] theorem State.offerPlaces_halted (n : SlotId) : (s.offerPlaces n).halted = s.halted := by simp [State.halted]
@[simp] theorem State.offerPlaces_slot (n : SlotId) (k : SlotId) : (s.offerPlaces n).slot k = s.slot k := by simp [State.slot]
@[simp] theorem State.offerPlaces_comp (n : SlotId) (k : CompRingId) : (s.offerPlaces n).comp k = s.comp k := by simp [State.comp]
@[simp] theorem State.offerPlaces_dirtySlot (n : SlotId) (k : SlotId) : (s.offerPlaces n).dirtySlot k = s.dirtySlot k := by simp [State.dirtySlot]
@[simp] theorem State.offerPlaces_dirtyRing (n : SlotId) (k : RingId) : (s.offerPlaces n).dirtyRing k = s.dirtyRing k := by simp [State.dirtyRing]
@[simp] theorem State.offerPlaces_vecPending (n : SlotId) (k : VectorId) : (s.offerPlaces n).vecPending k = s.vecPending k := by simp [State.vecPending]
@[simp] theorem State.offerPlaces_vecMasked (n : SlotId) (k : VectorId) : (s.offerPlaces n).vecMasked k = s.vecMasked k := by simp [State.vecMasked]
@[simp] theorem State.offerPlaces_msgCount (n : SlotId) (k : VectorId) : (s.offerPlaces n).msgCount k = s.msgCount k := by simp [State.msgCount]

@[simp] theorem State.setRole_pending (n : SlotId) (role : LaneRole) : (s.setRole n role).pending = s.pending := rfl
@[simp] theorem State.setRole_condition (n : SlotId) (role : LaneRole) : (s.setRole n role).condition = s.condition := rfl
@[simp] theorem State.setRole_intEnable (n : SlotId) (role : LaneRole) : (s.setRole n role).intEnable = s.intEnable := rfl
@[simp] theorem State.setRole_haltCause (n : SlotId) (role : LaneRole) : (s.setRole n role).haltCause = s.haltCause := rfl
@[simp] theorem State.setRole_postError (n : SlotId) (role : LaneRole) : (s.setRole n role).postError = s.postError := rfl
@[simp] theorem State.setRole_startLo (n : SlotId) (role : LaneRole) : (s.setRole n role).startLo = s.startLo := rfl
@[simp] theorem State.setRole_startHi (n : SlotId) (role : LaneRole) : (s.setRole n role).startHi = s.startHi := rfl
@[simp] theorem State.setRole_startCopy (n : SlotId) (role : LaneRole) : (s.setRole n role).startCopy = s.startCopy := rfl
@[simp] theorem State.setRole_startRead (n : SlotId) (role : LaneRole) : (s.setRole n role).startRead = s.startRead := rfl
@[simp] theorem State.setRole_startMoot (n : SlotId) (role : LaneRole) : (s.setRole n role).startMoot = s.startMoot := rfl
@[simp] theorem State.setRole_laneFitted (n : SlotId) (role : LaneRole) : (s.setRole n role).laneFitted = s.laneFitted := rfl
@[simp] theorem State.setRole_inReset (n : SlotId) (role : LaneRole) : (s.setRole n role).inReset = s.inReset := rfl
@[simp] theorem State.setRole_readData (n : SlotId) (role : LaneRole) : (s.setRole n role).readData = s.readData := rfl
@[simp] theorem State.setRole_engines (n : SlotId) (role : LaneRole) : (s.setRole n role).engines = s.engines := rfl
@[simp] theorem State.setRole_rings (n : SlotId) (role : LaneRole) : (s.setRole n role).rings = s.rings := rfl
@[simp] theorem State.setRole_roundRobin (n : SlotId) (role : LaneRole) : (s.setRole n role).roundRobin = s.roundRobin := rfl
@[simp] theorem State.setRole_recordRead (n : SlotId) (role : LaneRole) : (s.setRole n role).recordRead = s.recordRead := rfl
@[simp] theorem State.setRole_waitOrders (n : SlotId) (role : LaneRole) : (s.setRole n role).waitOrders = s.waitOrders := rfl
@[simp] theorem State.setRole_control (n : SlotId) (role : LaneRole) : (s.setRole n role).control = s.control := rfl
@[simp] theorem State.setRole_snapshotWrite (n : SlotId) (role : LaneRole) : (s.setRole n role).snapshotWrite = s.snapshotWrite := rfl
@[simp] theorem State.setRole_deferred (n : SlotId) (role : LaneRole) : (s.setRole n role).deferred = s.deferred := rfl
@[simp] theorem State.setRole_locks (n : SlotId) (role : LaneRole) : (s.setRole n role).locks = s.locks := rfl
@[simp] theorem State.setRole_compRings (n : SlotId) (role : LaneRole) : (s.setRole n role).compRings = s.compRings := rfl
@[simp] theorem State.setRole_notices (n : SlotId) (role : LaneRole) : (s.setRole n role).notices = s.notices := rfl
@[simp] theorem State.setRole_slotDirty (n : SlotId) (role : LaneRole) : (s.setRole n role).slotDirty = s.slotDirty := rfl
@[simp] theorem State.setRole_ringDirty (n : SlotId) (role : LaneRole) : (s.setRole n role).ringDirty = s.ringDirty := rfl
@[simp] theorem State.setRole_vectorPending (n : SlotId) (role : LaneRole) : (s.setRole n role).vectorPending = s.vectorPending := rfl
@[simp] theorem State.setRole_vectorMasked (n : SlotId) (role : LaneRole) : (s.setRole n role).vectorMasked = s.vectorMasked := rfl
@[simp] theorem State.setRole_messagesSent (n : SlotId) (role : LaneRole) : (s.setRole n role).messagesSent = s.messagesSent := rfl
@[simp] theorem State.setRole_freeCount (n : SlotId) (role : LaneRole) : (s.setRole n role).freeCount = s.freeCount := rfl
@[simp] theorem State.setRole_halted (n : SlotId) (role : LaneRole) : (s.setRole n role).halted = s.halted := by simp [State.halted]
@[simp] theorem State.setRole_engine (n : SlotId) (role : LaneRole) (k : SlotId) : (s.setRole n role).engine k = s.engine k := by simp [State.engine]
@[simp] theorem State.setRole_ring (n : SlotId) (role : LaneRole) (k : RingId) : (s.setRole n role).ring k = s.ring k := by simp [State.ring]
@[simp] theorem State.setRole_comp (n : SlotId) (role : LaneRole) (k : CompRingId) : (s.setRole n role).comp k = s.comp k := by simp [State.comp]
@[simp] theorem State.setRole_waitOrder (n : SlotId) (role : LaneRole) (k : SlotId) : (s.setRole n role).waitOrder k = s.waitOrder k := by simp [State.waitOrder]
@[simp] theorem State.setRole_dirtySlot (n : SlotId) (role : LaneRole) (k : SlotId) : (s.setRole n role).dirtySlot k = s.dirtySlot k := by simp [State.dirtySlot]
@[simp] theorem State.setRole_dirtyRing (n : SlotId) (role : LaneRole) (k : RingId) : (s.setRole n role).dirtyRing k = s.dirtyRing k := by simp [State.dirtyRing]
@[simp] theorem State.setRole_vecPending (n : SlotId) (role : LaneRole) (k : VectorId) : (s.setRole n role).vecPending k = s.vecPending k := by simp [State.vecPending]
@[simp] theorem State.setRole_vecMasked (n : SlotId) (role : LaneRole) (k : VectorId) : (s.setRole n role).vecMasked k = s.vecMasked k := by simp [State.vecMasked]
@[simp] theorem State.setRole_msgCount (n : SlotId) (role : LaneRole) (k : VectorId) : (s.setRole n role).msgCount k = s.msgCount k := by simp [State.msgCount]

@[simp] theorem State.endHold_pending (n : SlotId) : (s.endHold n).pending = s.pending := rfl
@[simp] theorem State.endHold_condition (n : SlotId) : (s.endHold n).condition = s.condition := rfl
@[simp] theorem State.endHold_intEnable (n : SlotId) : (s.endHold n).intEnable = s.intEnable := rfl
@[simp] theorem State.endHold_haltCause (n : SlotId) : (s.endHold n).haltCause = s.haltCause := rfl
@[simp] theorem State.endHold_postError (n : SlotId) : (s.endHold n).postError = s.postError := rfl
@[simp] theorem State.endHold_startLo (n : SlotId) : (s.endHold n).startLo = s.startLo := rfl
@[simp] theorem State.endHold_startHi (n : SlotId) : (s.endHold n).startHi = s.startHi := rfl
@[simp] theorem State.endHold_startCopy (n : SlotId) : (s.endHold n).startCopy = s.startCopy := rfl
@[simp] theorem State.endHold_startRead (n : SlotId) : (s.endHold n).startRead = s.startRead := rfl
@[simp] theorem State.endHold_startMoot (n : SlotId) : (s.endHold n).startMoot = s.startMoot := rfl
@[simp] theorem State.endHold_laneFitted (n : SlotId) : (s.endHold n).laneFitted = s.laneFitted := rfl
@[simp] theorem State.endHold_inReset (n : SlotId) : (s.endHold n).inReset = s.inReset := rfl
@[simp] theorem State.endHold_readData (n : SlotId) : (s.endHold n).readData = s.readData := rfl
@[simp] theorem State.endHold_engines (n : SlotId) : (s.endHold n).engines = s.engines := rfl
@[simp] theorem State.endHold_rings (n : SlotId) : (s.endHold n).rings = s.rings := rfl
@[simp] theorem State.endHold_roundRobin (n : SlotId) : (s.endHold n).roundRobin = s.roundRobin := rfl
@[simp] theorem State.endHold_recordRead (n : SlotId) : (s.endHold n).recordRead = s.recordRead := rfl
@[simp] theorem State.endHold_waitOrders (n : SlotId) : (s.endHold n).waitOrders = s.waitOrders := rfl
@[simp] theorem State.endHold_control (n : SlotId) : (s.endHold n).control = s.control := rfl
@[simp] theorem State.endHold_snapshotWrite (n : SlotId) : (s.endHold n).snapshotWrite = s.snapshotWrite := rfl
@[simp] theorem State.endHold_deferred (n : SlotId) : (s.endHold n).deferred = s.deferred := rfl
@[simp] theorem State.endHold_locks (n : SlotId) : (s.endHold n).locks = s.locks := rfl
@[simp] theorem State.endHold_compRings (n : SlotId) : (s.endHold n).compRings = s.compRings := rfl
@[simp] theorem State.endHold_notices (n : SlotId) : (s.endHold n).notices = s.notices := rfl
@[simp] theorem State.endHold_slotDirty (n : SlotId) : (s.endHold n).slotDirty = s.slotDirty := rfl
@[simp] theorem State.endHold_ringDirty (n : SlotId) : (s.endHold n).ringDirty = s.ringDirty := rfl
@[simp] theorem State.endHold_vectorPending (n : SlotId) : (s.endHold n).vectorPending = s.vectorPending := rfl
@[simp] theorem State.endHold_vectorMasked (n : SlotId) : (s.endHold n).vectorMasked = s.vectorMasked := rfl
@[simp] theorem State.endHold_messagesSent (n : SlotId) : (s.endHold n).messagesSent = s.messagesSent := rfl
@[simp] theorem State.endHold_freeCount (n : SlotId) : (s.endHold n).freeCount = s.freeCount := rfl
@[simp] theorem State.endHold_halted (n : SlotId) : (s.endHold n).halted = s.halted := by simp [State.halted]
@[simp] theorem State.endHold_engine (n : SlotId) (k : SlotId) : (s.endHold n).engine k = s.engine k := by simp [State.engine]
@[simp] theorem State.endHold_ring (n : SlotId) (k : RingId) : (s.endHold n).ring k = s.ring k := by simp [State.ring]
@[simp] theorem State.endHold_comp (n : SlotId) (k : CompRingId) : (s.endHold n).comp k = s.comp k := by simp [State.comp]
@[simp] theorem State.endHold_waitOrder (n : SlotId) (k : SlotId) : (s.endHold n).waitOrder k = s.waitOrder k := by simp [State.waitOrder]
@[simp] theorem State.endHold_dirtySlot (n : SlotId) (k : SlotId) : (s.endHold n).dirtySlot k = s.dirtySlot k := by simp [State.dirtySlot]
@[simp] theorem State.endHold_dirtyRing (n : SlotId) (k : RingId) : (s.endHold n).dirtyRing k = s.dirtyRing k := by simp [State.dirtyRing]
@[simp] theorem State.endHold_vecPending (n : SlotId) (k : VectorId) : (s.endHold n).vecPending k = s.vecPending k := by simp [State.vecPending]
@[simp] theorem State.endHold_vecMasked (n : SlotId) (k : VectorId) : (s.endHold n).vecMasked k = s.vecMasked k := by simp [State.vecMasked]
@[simp] theorem State.endHold_msgCount (n : SlotId) (k : VectorId) : (s.endHold n).msgCount k = s.msgCount k := by simp [State.msgCount]

@[simp] theorem State.dropWaiter_pending (w : Waiter) : (s.dropWaiter w).pending = s.pending := rfl
@[simp] theorem State.dropWaiter_condition (w : Waiter) : (s.dropWaiter w).condition = s.condition := rfl
@[simp] theorem State.dropWaiter_intEnable (w : Waiter) : (s.dropWaiter w).intEnable = s.intEnable := rfl
@[simp] theorem State.dropWaiter_haltCause (w : Waiter) : (s.dropWaiter w).haltCause = s.haltCause := rfl
@[simp] theorem State.dropWaiter_postError (w : Waiter) : (s.dropWaiter w).postError = s.postError := rfl
@[simp] theorem State.dropWaiter_startLo (w : Waiter) : (s.dropWaiter w).startLo = s.startLo := rfl
@[simp] theorem State.dropWaiter_startHi (w : Waiter) : (s.dropWaiter w).startHi = s.startHi := rfl
@[simp] theorem State.dropWaiter_startCopy (w : Waiter) : (s.dropWaiter w).startCopy = s.startCopy := rfl
@[simp] theorem State.dropWaiter_startRead (w : Waiter) : (s.dropWaiter w).startRead = s.startRead := rfl
@[simp] theorem State.dropWaiter_startMoot (w : Waiter) : (s.dropWaiter w).startMoot = s.startMoot := rfl
@[simp] theorem State.dropWaiter_laneFitted (w : Waiter) : (s.dropWaiter w).laneFitted = s.laneFitted := rfl
@[simp] theorem State.dropWaiter_inReset (w : Waiter) : (s.dropWaiter w).inReset = s.inReset := rfl
@[simp] theorem State.dropWaiter_readData (w : Waiter) : (s.dropWaiter w).readData = s.readData := rfl
@[simp] theorem State.dropWaiter_engines (w : Waiter) : (s.dropWaiter w).engines = s.engines := rfl
@[simp] theorem State.dropWaiter_rings (w : Waiter) : (s.dropWaiter w).rings = s.rings := rfl
@[simp] theorem State.dropWaiter_roundRobin (w : Waiter) : (s.dropWaiter w).roundRobin = s.roundRobin := rfl
@[simp] theorem State.dropWaiter_recordRead (w : Waiter) : (s.dropWaiter w).recordRead = s.recordRead := rfl
@[simp] theorem State.dropWaiter_waitOrders (w : Waiter) : (s.dropWaiter w).waitOrders = s.waitOrders := rfl
@[simp] theorem State.dropWaiter_control (w : Waiter) : (s.dropWaiter w).control = s.control := rfl
@[simp] theorem State.dropWaiter_snapshotWrite (w : Waiter) : (s.dropWaiter w).snapshotWrite = s.snapshotWrite := rfl
@[simp] theorem State.dropWaiter_deferred (w : Waiter) : (s.dropWaiter w).deferred = s.deferred := rfl
@[simp] theorem State.dropWaiter_locks (w : Waiter) : (s.dropWaiter w).locks = s.locks := rfl
@[simp] theorem State.dropWaiter_compRings (w : Waiter) : (s.dropWaiter w).compRings = s.compRings := rfl
@[simp] theorem State.dropWaiter_notices (w : Waiter) : (s.dropWaiter w).notices = s.notices := rfl
@[simp] theorem State.dropWaiter_slotDirty (w : Waiter) : (s.dropWaiter w).slotDirty = s.slotDirty := rfl
@[simp] theorem State.dropWaiter_ringDirty (w : Waiter) : (s.dropWaiter w).ringDirty = s.ringDirty := rfl
@[simp] theorem State.dropWaiter_vectorPending (w : Waiter) : (s.dropWaiter w).vectorPending = s.vectorPending := rfl
@[simp] theorem State.dropWaiter_vectorMasked (w : Waiter) : (s.dropWaiter w).vectorMasked = s.vectorMasked := rfl
@[simp] theorem State.dropWaiter_messagesSent (w : Waiter) : (s.dropWaiter w).messagesSent = s.messagesSent := rfl
@[simp] theorem State.dropWaiter_freeCount (w : Waiter) : (s.dropWaiter w).freeCount = s.freeCount := rfl
@[simp] theorem State.dropWaiter_halted (w : Waiter) : (s.dropWaiter w).halted = s.halted := by simp [State.halted]
@[simp] theorem State.dropWaiter_engine (w : Waiter) (k : SlotId) : (s.dropWaiter w).engine k = s.engine k := by simp [State.engine]
@[simp] theorem State.dropWaiter_ring (w : Waiter) (k : RingId) : (s.dropWaiter w).ring k = s.ring k := by simp [State.ring]
@[simp] theorem State.dropWaiter_comp (w : Waiter) (k : CompRingId) : (s.dropWaiter w).comp k = s.comp k := by simp [State.comp]
@[simp] theorem State.dropWaiter_waitOrder (w : Waiter) (k : SlotId) : (s.dropWaiter w).waitOrder k = s.waitOrder k := by simp [State.waitOrder]
@[simp] theorem State.dropWaiter_dirtySlot (w : Waiter) (k : SlotId) : (s.dropWaiter w).dirtySlot k = s.dirtySlot k := by simp [State.dirtySlot]
@[simp] theorem State.dropWaiter_dirtyRing (w : Waiter) (k : RingId) : (s.dropWaiter w).dirtyRing k = s.dirtyRing k := by simp [State.dirtyRing]
@[simp] theorem State.dropWaiter_vecPending (w : Waiter) (k : VectorId) : (s.dropWaiter w).vecPending k = s.vecPending k := by simp [State.vecPending]
@[simp] theorem State.dropWaiter_vecMasked (w : Waiter) (k : VectorId) : (s.dropWaiter w).vecMasked k = s.vecMasked k := by simp [State.vecMasked]
@[simp] theorem State.dropWaiter_msgCount (w : Waiter) (k : VectorId) : (s.dropWaiter w).msgCount k = s.msgCount k := by simp [State.msgCount]

@[simp] theorem State.laneDepart_pending (n : SlotId) (status : Status) : ((s.laneDepart n status).1).pending = s.pending := by
  obtain ⟨_, _, h⟩ := State.laneDepart_frame s n status; rw [h]
@[simp] theorem State.laneDepart_condition (n : SlotId) (status : Status) : ((s.laneDepart n status).1).condition = s.condition := by
  obtain ⟨_, _, h⟩ := State.laneDepart_frame s n status; rw [h]
@[simp] theorem State.laneDepart_intEnable (n : SlotId) (status : Status) : ((s.laneDepart n status).1).intEnable = s.intEnable := by
  obtain ⟨_, _, h⟩ := State.laneDepart_frame s n status; rw [h]
@[simp] theorem State.laneDepart_haltCause (n : SlotId) (status : Status) : ((s.laneDepart n status).1).haltCause = s.haltCause := by
  obtain ⟨_, _, h⟩ := State.laneDepart_frame s n status; rw [h]
@[simp] theorem State.laneDepart_postError (n : SlotId) (status : Status) : ((s.laneDepart n status).1).postError = s.postError := by
  obtain ⟨_, _, h⟩ := State.laneDepart_frame s n status; rw [h]
@[simp] theorem State.laneDepart_startLo (n : SlotId) (status : Status) : ((s.laneDepart n status).1).startLo = s.startLo := by
  obtain ⟨_, _, h⟩ := State.laneDepart_frame s n status; rw [h]
@[simp] theorem State.laneDepart_startHi (n : SlotId) (status : Status) : ((s.laneDepart n status).1).startHi = s.startHi := by
  obtain ⟨_, _, h⟩ := State.laneDepart_frame s n status; rw [h]
@[simp] theorem State.laneDepart_startCopy (n : SlotId) (status : Status) : ((s.laneDepart n status).1).startCopy = s.startCopy := by
  obtain ⟨_, _, h⟩ := State.laneDepart_frame s n status; rw [h]
@[simp] theorem State.laneDepart_startRead (n : SlotId) (status : Status) : ((s.laneDepart n status).1).startRead = s.startRead := by
  obtain ⟨_, _, h⟩ := State.laneDepart_frame s n status; rw [h]
@[simp] theorem State.laneDepart_startMoot (n : SlotId) (status : Status) : ((s.laneDepart n status).1).startMoot = s.startMoot := by
  obtain ⟨_, _, h⟩ := State.laneDepart_frame s n status; rw [h]
@[simp] theorem State.laneDepart_laneFitted (n : SlotId) (status : Status) : ((s.laneDepart n status).1).laneFitted = s.laneFitted := by
  obtain ⟨_, _, h⟩ := State.laneDepart_frame s n status; rw [h]
@[simp] theorem State.laneDepart_inReset (n : SlotId) (status : Status) : ((s.laneDepart n status).1).inReset = s.inReset := by
  obtain ⟨_, _, h⟩ := State.laneDepart_frame s n status; rw [h]
@[simp] theorem State.laneDepart_readData (n : SlotId) (status : Status) : ((s.laneDepart n status).1).readData = s.readData := by
  obtain ⟨_, _, h⟩ := State.laneDepart_frame s n status; rw [h]
@[simp] theorem State.laneDepart_engines (n : SlotId) (status : Status) : ((s.laneDepart n status).1).engines = s.engines := by
  obtain ⟨_, _, h⟩ := State.laneDepart_frame s n status; rw [h]
@[simp] theorem State.laneDepart_rings (n : SlotId) (status : Status) : ((s.laneDepart n status).1).rings = s.rings := by
  obtain ⟨_, _, h⟩ := State.laneDepart_frame s n status; rw [h]
@[simp] theorem State.laneDepart_roundRobin (n : SlotId) (status : Status) : ((s.laneDepart n status).1).roundRobin = s.roundRobin := by
  obtain ⟨_, _, h⟩ := State.laneDepart_frame s n status; rw [h]
@[simp] theorem State.laneDepart_recordRead (n : SlotId) (status : Status) : ((s.laneDepart n status).1).recordRead = s.recordRead := by
  obtain ⟨_, _, h⟩ := State.laneDepart_frame s n status; rw [h]
@[simp] theorem State.laneDepart_waitOrders (n : SlotId) (status : Status) : ((s.laneDepart n status).1).waitOrders = s.waitOrders := by
  obtain ⟨_, _, h⟩ := State.laneDepart_frame s n status; rw [h]
@[simp] theorem State.laneDepart_control (n : SlotId) (status : Status) : ((s.laneDepart n status).1).control = s.control := by
  obtain ⟨_, _, h⟩ := State.laneDepart_frame s n status; rw [h]
@[simp] theorem State.laneDepart_snapshotWrite (n : SlotId) (status : Status) : ((s.laneDepart n status).1).snapshotWrite = s.snapshotWrite := by
  obtain ⟨_, _, h⟩ := State.laneDepart_frame s n status; rw [h]
@[simp] theorem State.laneDepart_deferred (n : SlotId) (status : Status) : ((s.laneDepart n status).1).deferred = s.deferred := by
  obtain ⟨_, _, h⟩ := State.laneDepart_frame s n status; rw [h]
@[simp] theorem State.laneDepart_locks (n : SlotId) (status : Status) : ((s.laneDepart n status).1).locks = s.locks := by
  obtain ⟨_, _, h⟩ := State.laneDepart_frame s n status; rw [h]
@[simp] theorem State.laneDepart_compRings (n : SlotId) (status : Status) : ((s.laneDepart n status).1).compRings = s.compRings := by
  obtain ⟨_, _, h⟩ := State.laneDepart_frame s n status; rw [h]
@[simp] theorem State.laneDepart_notices (n : SlotId) (status : Status) : ((s.laneDepart n status).1).notices = s.notices := by
  obtain ⟨_, _, h⟩ := State.laneDepart_frame s n status; rw [h]
@[simp] theorem State.laneDepart_slotDirty (n : SlotId) (status : Status) : ((s.laneDepart n status).1).slotDirty = s.slotDirty := by
  obtain ⟨_, _, h⟩ := State.laneDepart_frame s n status; rw [h]
@[simp] theorem State.laneDepart_ringDirty (n : SlotId) (status : Status) : ((s.laneDepart n status).1).ringDirty = s.ringDirty := by
  obtain ⟨_, _, h⟩ := State.laneDepart_frame s n status; rw [h]
@[simp] theorem State.laneDepart_vectorPending (n : SlotId) (status : Status) : ((s.laneDepart n status).1).vectorPending = s.vectorPending := by
  obtain ⟨_, _, h⟩ := State.laneDepart_frame s n status; rw [h]
@[simp] theorem State.laneDepart_vectorMasked (n : SlotId) (status : Status) : ((s.laneDepart n status).1).vectorMasked = s.vectorMasked := by
  obtain ⟨_, _, h⟩ := State.laneDepart_frame s n status; rw [h]
@[simp] theorem State.laneDepart_messagesSent (n : SlotId) (status : Status) : ((s.laneDepart n status).1).messagesSent = s.messagesSent := by
  obtain ⟨_, _, h⟩ := State.laneDepart_frame s n status; rw [h]
@[simp] theorem State.laneDepart_freeCount (n : SlotId) (status : Status) : ((s.laneDepart n status).1).freeCount = s.freeCount := by
  obtain ⟨_, _, h⟩ := State.laneDepart_frame s n status; rw [h]
@[simp] theorem State.laneDepart_halted (n : SlotId) (status : Status) : ((s.laneDepart n status).1).halted = s.halted := by simp [State.halted]
@[simp] theorem State.laneDepart_engine (n : SlotId) (status : Status) (k : SlotId) : ((s.laneDepart n status).1).engine k = s.engine k := by simp [State.engine]
@[simp] theorem State.laneDepart_ring (n : SlotId) (status : Status) (k : RingId) : ((s.laneDepart n status).1).ring k = s.ring k := by simp [State.ring]
@[simp] theorem State.laneDepart_comp (n : SlotId) (status : Status) (k : CompRingId) : ((s.laneDepart n status).1).comp k = s.comp k := by simp [State.comp]
@[simp] theorem State.laneDepart_waitOrder (n : SlotId) (status : Status) (k : SlotId) : ((s.laneDepart n status).1).waitOrder k = s.waitOrder k := by simp [State.waitOrder]
@[simp] theorem State.laneDepart_dirtySlot (n : SlotId) (status : Status) (k : SlotId) : ((s.laneDepart n status).1).dirtySlot k = s.dirtySlot k := by simp [State.dirtySlot]
@[simp] theorem State.laneDepart_dirtyRing (n : SlotId) (status : Status) (k : RingId) : ((s.laneDepart n status).1).dirtyRing k = s.dirtyRing k := by simp [State.dirtyRing]
@[simp] theorem State.laneDepart_vecPending (n : SlotId) (status : Status) (k : VectorId) : ((s.laneDepart n status).1).vecPending k = s.vecPending k := by simp [State.vecPending]
@[simp] theorem State.laneDepart_vecMasked (n : SlotId) (status : Status) (k : VectorId) : ((s.laneDepart n status).1).vecMasked k = s.vecMasked k := by simp [State.vecMasked]
@[simp] theorem State.laneDepart_msgCount (n : SlotId) (status : Status) (k : VectorId) : ((s.laneDepart n status).1).msgCount k = s.msgCount k := by simp [State.msgCount]

@[simp] theorem State.clearLists_pending (n : SlotId) : (s.clearLists n).pending = s.pending := rfl
@[simp] theorem State.clearLists_condition (n : SlotId) : (s.clearLists n).condition = s.condition := rfl
@[simp] theorem State.clearLists_intEnable (n : SlotId) : (s.clearLists n).intEnable = s.intEnable := rfl
@[simp] theorem State.clearLists_haltCause (n : SlotId) : (s.clearLists n).haltCause = s.haltCause := rfl
@[simp] theorem State.clearLists_postError (n : SlotId) : (s.clearLists n).postError = s.postError := rfl
@[simp] theorem State.clearLists_startLo (n : SlotId) : (s.clearLists n).startLo = s.startLo := rfl
@[simp] theorem State.clearLists_startHi (n : SlotId) : (s.clearLists n).startHi = s.startHi := rfl
@[simp] theorem State.clearLists_startCopy (n : SlotId) : (s.clearLists n).startCopy = s.startCopy := rfl
@[simp] theorem State.clearLists_startRead (n : SlotId) : (s.clearLists n).startRead = s.startRead := rfl
@[simp] theorem State.clearLists_startMoot (n : SlotId) : (s.clearLists n).startMoot = s.startMoot := rfl
@[simp] theorem State.clearLists_laneFitted (n : SlotId) : (s.clearLists n).laneFitted = s.laneFitted := rfl
@[simp] theorem State.clearLists_inReset (n : SlotId) : (s.clearLists n).inReset = s.inReset := rfl
@[simp] theorem State.clearLists_readData (n : SlotId) : (s.clearLists n).readData = s.readData := rfl
@[simp] theorem State.clearLists_slots (n : SlotId) : (s.clearLists n).slots = s.slots := rfl
@[simp] theorem State.clearLists_rings (n : SlotId) : (s.clearLists n).rings = s.rings := rfl
@[simp] theorem State.clearLists_roundRobin (n : SlotId) : (s.clearLists n).roundRobin = s.roundRobin := rfl
@[simp] theorem State.clearLists_recordRead (n : SlotId) : (s.clearLists n).recordRead = s.recordRead := rfl
@[simp] theorem State.clearLists_waitOrders (n : SlotId) : (s.clearLists n).waitOrders = s.waitOrders := rfl
@[simp] theorem State.clearLists_control (n : SlotId) : (s.clearLists n).control = s.control := rfl
@[simp] theorem State.clearLists_snapshotWrite (n : SlotId) : (s.clearLists n).snapshotWrite = s.snapshotWrite := rfl
@[simp] theorem State.clearLists_deferred (n : SlotId) : (s.clearLists n).deferred = s.deferred := rfl
@[simp] theorem State.clearLists_locks (n : SlotId) : (s.clearLists n).locks = s.locks := rfl
@[simp] theorem State.clearLists_lane (n : SlotId) : (s.clearLists n).lane = s.lane := rfl
@[simp] theorem State.clearLists_compRings (n : SlotId) : (s.clearLists n).compRings = s.compRings := rfl
@[simp] theorem State.clearLists_notices (n : SlotId) : (s.clearLists n).notices = s.notices := rfl
@[simp] theorem State.clearLists_slotDirty (n : SlotId) : (s.clearLists n).slotDirty = s.slotDirty := rfl
@[simp] theorem State.clearLists_ringDirty (n : SlotId) : (s.clearLists n).ringDirty = s.ringDirty := rfl
@[simp] theorem State.clearLists_vectorPending (n : SlotId) : (s.clearLists n).vectorPending = s.vectorPending := rfl
@[simp] theorem State.clearLists_vectorMasked (n : SlotId) : (s.clearLists n).vectorMasked = s.vectorMasked := rfl
@[simp] theorem State.clearLists_messagesSent (n : SlotId) : (s.clearLists n).messagesSent = s.messagesSent := rfl
@[simp] theorem State.clearLists_freeCount (n : SlotId) : (s.clearLists n).freeCount = s.freeCount := rfl
@[simp] theorem State.clearLists_halted (n : SlotId) : (s.clearLists n).halted = s.halted := by simp [State.halted]
@[simp] theorem State.clearLists_slot (n : SlotId) (k : SlotId) : (s.clearLists n).slot k = s.slot k := by simp [State.slot]
@[simp] theorem State.clearLists_ring (n : SlotId) (k : RingId) : (s.clearLists n).ring k = s.ring k := by simp [State.ring]
@[simp] theorem State.clearLists_comp (n : SlotId) (k : CompRingId) : (s.clearLists n).comp k = s.comp k := by simp [State.comp]
@[simp] theorem State.clearLists_waitOrder (n : SlotId) (k : SlotId) : (s.clearLists n).waitOrder k = s.waitOrder k := by simp [State.waitOrder]
@[simp] theorem State.clearLists_dirtySlot (n : SlotId) (k : SlotId) : (s.clearLists n).dirtySlot k = s.dirtySlot k := by simp [State.dirtySlot]
@[simp] theorem State.clearLists_dirtyRing (n : SlotId) (k : RingId) : (s.clearLists n).dirtyRing k = s.dirtyRing k := by simp [State.dirtyRing]
@[simp] theorem State.clearLists_vecPending (n : SlotId) (k : VectorId) : (s.clearLists n).vecPending k = s.vecPending k := by simp [State.vecPending]
@[simp] theorem State.clearLists_vecMasked (n : SlotId) (k : VectorId) : (s.clearLists n).vecMasked k = s.vecMasked k := by simp [State.vecMasked]
@[simp] theorem State.clearLists_msgCount (n : SlotId) (k : VectorId) : (s.clearLists n).msgCount k = s.msgCount k := by simp [State.msgCount]

@[simp] theorem State.cutEngine_pending (n : SlotId) : (s.cutEngine n).pending = s.pending := rfl
@[simp] theorem State.cutEngine_condition (n : SlotId) : (s.cutEngine n).condition = s.condition := rfl
@[simp] theorem State.cutEngine_intEnable (n : SlotId) : (s.cutEngine n).intEnable = s.intEnable := rfl
@[simp] theorem State.cutEngine_haltCause (n : SlotId) : (s.cutEngine n).haltCause = s.haltCause := rfl
@[simp] theorem State.cutEngine_postError (n : SlotId) : (s.cutEngine n).postError = s.postError := rfl
@[simp] theorem State.cutEngine_startLo (n : SlotId) : (s.cutEngine n).startLo = s.startLo := rfl
@[simp] theorem State.cutEngine_startHi (n : SlotId) : (s.cutEngine n).startHi = s.startHi := rfl
@[simp] theorem State.cutEngine_startCopy (n : SlotId) : (s.cutEngine n).startCopy = s.startCopy := rfl
@[simp] theorem State.cutEngine_startRead (n : SlotId) : (s.cutEngine n).startRead = s.startRead := rfl
@[simp] theorem State.cutEngine_startMoot (n : SlotId) : (s.cutEngine n).startMoot = s.startMoot := rfl
@[simp] theorem State.cutEngine_laneFitted (n : SlotId) : (s.cutEngine n).laneFitted = s.laneFitted := rfl
@[simp] theorem State.cutEngine_inReset (n : SlotId) : (s.cutEngine n).inReset = s.inReset := rfl
@[simp] theorem State.cutEngine_readData (n : SlotId) : (s.cutEngine n).readData = s.readData := rfl
@[simp] theorem State.cutEngine_slots (n : SlotId) : (s.cutEngine n).slots = s.slots := rfl
@[simp] theorem State.cutEngine_rings (n : SlotId) : (s.cutEngine n).rings = s.rings := rfl
@[simp] theorem State.cutEngine_roundRobin (n : SlotId) : (s.cutEngine n).roundRobin = s.roundRobin := rfl
@[simp] theorem State.cutEngine_recordRead (n : SlotId) : (s.cutEngine n).recordRead = s.recordRead := rfl
@[simp] theorem State.cutEngine_waitOrders (n : SlotId) : (s.cutEngine n).waitOrders = s.waitOrders := rfl
@[simp] theorem State.cutEngine_control (n : SlotId) : (s.cutEngine n).control = s.control := rfl
@[simp] theorem State.cutEngine_snapshotWrite (n : SlotId) : (s.cutEngine n).snapshotWrite = s.snapshotWrite := rfl
@[simp] theorem State.cutEngine_deferred (n : SlotId) : (s.cutEngine n).deferred = s.deferred := rfl
@[simp] theorem State.cutEngine_locks (n : SlotId) : (s.cutEngine n).locks = s.locks := rfl
@[simp] theorem State.cutEngine_lane (n : SlotId) : (s.cutEngine n).lane = s.lane := rfl
@[simp] theorem State.cutEngine_compRings (n : SlotId) : (s.cutEngine n).compRings = s.compRings := rfl
@[simp] theorem State.cutEngine_notices (n : SlotId) : (s.cutEngine n).notices = s.notices := rfl
@[simp] theorem State.cutEngine_slotDirty (n : SlotId) : (s.cutEngine n).slotDirty = s.slotDirty := rfl
@[simp] theorem State.cutEngine_ringDirty (n : SlotId) : (s.cutEngine n).ringDirty = s.ringDirty := rfl
@[simp] theorem State.cutEngine_vectorPending (n : SlotId) : (s.cutEngine n).vectorPending = s.vectorPending := rfl
@[simp] theorem State.cutEngine_vectorMasked (n : SlotId) : (s.cutEngine n).vectorMasked = s.vectorMasked := rfl
@[simp] theorem State.cutEngine_messagesSent (n : SlotId) : (s.cutEngine n).messagesSent = s.messagesSent := rfl
@[simp] theorem State.cutEngine_freeCount (n : SlotId) : (s.cutEngine n).freeCount = s.freeCount := rfl
@[simp] theorem State.cutEngine_halted (n : SlotId) : (s.cutEngine n).halted = s.halted := by simp [State.halted]
@[simp] theorem State.cutEngine_slot (n : SlotId) (k : SlotId) : (s.cutEngine n).slot k = s.slot k := by simp [State.slot]
@[simp] theorem State.cutEngine_ring (n : SlotId) (k : RingId) : (s.cutEngine n).ring k = s.ring k := by simp [State.ring]
@[simp] theorem State.cutEngine_comp (n : SlotId) (k : CompRingId) : (s.cutEngine n).comp k = s.comp k := by simp [State.comp]
@[simp] theorem State.cutEngine_waitOrder (n : SlotId) (k : SlotId) : (s.cutEngine n).waitOrder k = s.waitOrder k := by simp [State.waitOrder]
@[simp] theorem State.cutEngine_dirtySlot (n : SlotId) (k : SlotId) : (s.cutEngine n).dirtySlot k = s.dirtySlot k := by simp [State.dirtySlot]
@[simp] theorem State.cutEngine_dirtyRing (n : SlotId) (k : RingId) : (s.cutEngine n).dirtyRing k = s.dirtyRing k := by simp [State.dirtyRing]
@[simp] theorem State.cutEngine_vecPending (n : SlotId) (k : VectorId) : (s.cutEngine n).vecPending k = s.vecPending k := by simp [State.vecPending]
@[simp] theorem State.cutEngine_vecMasked (n : SlotId) (k : VectorId) : (s.cutEngine n).vecMasked k = s.vecMasked k := by simp [State.vecMasked]
@[simp] theorem State.cutEngine_msgCount (n : SlotId) (k : VectorId) : (s.cutEngine n).msgCount k = s.msgCount k := by simp [State.msgCount]

@[simp] theorem State.writeVerdict_pending (n : SlotId) (d : Desc) : (s.writeVerdict n d).pending = s.pending := by
  obtain ⟨_, _, _, _, h⟩ := State.writeVerdict_frame s n d; rw [h]
@[simp] theorem State.writeVerdict_condition (n : SlotId) (d : Desc) : (s.writeVerdict n d).condition = s.condition := by
  obtain ⟨_, _, _, _, h⟩ := State.writeVerdict_frame s n d; rw [h]
@[simp] theorem State.writeVerdict_intEnable (n : SlotId) (d : Desc) : (s.writeVerdict n d).intEnable = s.intEnable := by
  obtain ⟨_, _, _, _, h⟩ := State.writeVerdict_frame s n d; rw [h]
@[simp] theorem State.writeVerdict_haltCause (n : SlotId) (d : Desc) : (s.writeVerdict n d).haltCause = s.haltCause := by
  obtain ⟨_, _, _, _, h⟩ := State.writeVerdict_frame s n d; rw [h]
@[simp] theorem State.writeVerdict_postError (n : SlotId) (d : Desc) : (s.writeVerdict n d).postError = s.postError := by
  obtain ⟨_, _, _, _, h⟩ := State.writeVerdict_frame s n d; rw [h]
@[simp] theorem State.writeVerdict_startLo (n : SlotId) (d : Desc) : (s.writeVerdict n d).startLo = s.startLo := by
  obtain ⟨_, _, _, _, h⟩ := State.writeVerdict_frame s n d; rw [h]
@[simp] theorem State.writeVerdict_startHi (n : SlotId) (d : Desc) : (s.writeVerdict n d).startHi = s.startHi := by
  obtain ⟨_, _, _, _, h⟩ := State.writeVerdict_frame s n d; rw [h]
@[simp] theorem State.writeVerdict_startCopy (n : SlotId) (d : Desc) : (s.writeVerdict n d).startCopy = s.startCopy := by
  obtain ⟨_, _, _, _, h⟩ := State.writeVerdict_frame s n d; rw [h]
@[simp] theorem State.writeVerdict_startRead (n : SlotId) (d : Desc) : (s.writeVerdict n d).startRead = s.startRead := by
  obtain ⟨_, _, _, _, h⟩ := State.writeVerdict_frame s n d; rw [h]
@[simp] theorem State.writeVerdict_startMoot (n : SlotId) (d : Desc) : (s.writeVerdict n d).startMoot = s.startMoot := by
  obtain ⟨_, _, _, _, h⟩ := State.writeVerdict_frame s n d; rw [h]
@[simp] theorem State.writeVerdict_laneFitted (n : SlotId) (d : Desc) : (s.writeVerdict n d).laneFitted = s.laneFitted := by
  obtain ⟨_, _, _, _, h⟩ := State.writeVerdict_frame s n d; rw [h]
@[simp] theorem State.writeVerdict_inReset (n : SlotId) (d : Desc) : (s.writeVerdict n d).inReset = s.inReset := by
  obtain ⟨_, _, _, _, h⟩ := State.writeVerdict_frame s n d; rw [h]
@[simp] theorem State.writeVerdict_readData (n : SlotId) (d : Desc) : (s.writeVerdict n d).readData = s.readData := by
  obtain ⟨_, _, _, _, h⟩ := State.writeVerdict_frame s n d; rw [h]
@[simp] theorem State.writeVerdict_engines (n : SlotId) (d : Desc) : (s.writeVerdict n d).engines = s.engines := by
  obtain ⟨_, _, _, _, h⟩ := State.writeVerdict_frame s n d; rw [h]
@[simp] theorem State.writeVerdict_rings (n : SlotId) (d : Desc) : (s.writeVerdict n d).rings = s.rings := by
  obtain ⟨_, _, _, _, h⟩ := State.writeVerdict_frame s n d; rw [h]
@[simp] theorem State.writeVerdict_roundRobin (n : SlotId) (d : Desc) : (s.writeVerdict n d).roundRobin = s.roundRobin := by
  obtain ⟨_, _, _, _, h⟩ := State.writeVerdict_frame s n d; rw [h]
@[simp] theorem State.writeVerdict_recordRead (n : SlotId) (d : Desc) : (s.writeVerdict n d).recordRead = s.recordRead := by
  obtain ⟨_, _, _, _, h⟩ := State.writeVerdict_frame s n d; rw [h]
@[simp] theorem State.writeVerdict_waitOrders (n : SlotId) (d : Desc) : (s.writeVerdict n d).waitOrders = s.waitOrders := by
  obtain ⟨_, _, _, _, h⟩ := State.writeVerdict_frame s n d; rw [h]
@[simp] theorem State.writeVerdict_control (n : SlotId) (d : Desc) : (s.writeVerdict n d).control = s.control := by
  obtain ⟨_, _, _, _, h⟩ := State.writeVerdict_frame s n d; rw [h]
@[simp] theorem State.writeVerdict_snapshotWrite (n : SlotId) (d : Desc) : (s.writeVerdict n d).snapshotWrite = s.snapshotWrite := by
  obtain ⟨_, _, _, _, h⟩ := State.writeVerdict_frame s n d; rw [h]
@[simp] theorem State.writeVerdict_deferred (n : SlotId) (d : Desc) : (s.writeVerdict n d).deferred = s.deferred := by
  obtain ⟨_, _, _, _, h⟩ := State.writeVerdict_frame s n d; rw [h]
@[simp] theorem State.writeVerdict_locks (n : SlotId) (d : Desc) : (s.writeVerdict n d).locks = s.locks := by
  obtain ⟨_, _, _, _, h⟩ := State.writeVerdict_frame s n d; rw [h]
@[simp] theorem State.writeVerdict_lane (n : SlotId) (d : Desc) : (s.writeVerdict n d).lane = s.lane := by
  obtain ⟨_, _, _, _, h⟩ := State.writeVerdict_frame s n d; rw [h]
@[simp] theorem State.writeVerdict_compRings (n : SlotId) (d : Desc) : (s.writeVerdict n d).compRings = s.compRings := by
  obtain ⟨_, _, _, _, h⟩ := State.writeVerdict_frame s n d; rw [h]
@[simp] theorem State.writeVerdict_vectorPending (n : SlotId) (d : Desc) : (s.writeVerdict n d).vectorPending = s.vectorPending := by
  obtain ⟨_, _, _, _, h⟩ := State.writeVerdict_frame s n d; rw [h]
@[simp] theorem State.writeVerdict_vectorMasked (n : SlotId) (d : Desc) : (s.writeVerdict n d).vectorMasked = s.vectorMasked := by
  obtain ⟨_, _, _, _, h⟩ := State.writeVerdict_frame s n d; rw [h]
@[simp] theorem State.writeVerdict_messagesSent (n : SlotId) (d : Desc) : (s.writeVerdict n d).messagesSent = s.messagesSent := by
  obtain ⟨_, _, _, _, h⟩ := State.writeVerdict_frame s n d; rw [h]
@[simp] theorem State.writeVerdict_freeCount (n : SlotId) (d : Desc) : (s.writeVerdict n d).freeCount = s.freeCount := by
  obtain ⟨_, _, _, _, h⟩ := State.writeVerdict_frame s n d; rw [h]
@[simp] theorem State.writeVerdict_halted (n : SlotId) (d : Desc) : (s.writeVerdict n d).halted = s.halted := by simp [State.halted]
@[simp] theorem State.writeVerdict_engine (n : SlotId) (d : Desc) (k : SlotId) : (s.writeVerdict n d).engine k = s.engine k := by simp [State.engine]
@[simp] theorem State.writeVerdict_ring (n : SlotId) (d : Desc) (k : RingId) : (s.writeVerdict n d).ring k = s.ring k := by simp [State.ring]
@[simp] theorem State.writeVerdict_comp (n : SlotId) (d : Desc) (k : CompRingId) : (s.writeVerdict n d).comp k = s.comp k := by simp [State.comp]
@[simp] theorem State.writeVerdict_waitOrder (n : SlotId) (d : Desc) (k : SlotId) : (s.writeVerdict n d).waitOrder k = s.waitOrder k := by simp [State.waitOrder]
@[simp] theorem State.writeVerdict_vecPending (n : SlotId) (d : Desc) (k : VectorId) : (s.writeVerdict n d).vecPending k = s.vecPending k := by simp [State.vecPending]
@[simp] theorem State.writeVerdict_vecMasked (n : SlotId) (d : Desc) (k : VectorId) : (s.writeVerdict n d).vecMasked k = s.vecMasked k := by simp [State.vecMasked]
@[simp] theorem State.writeVerdict_msgCount (n : SlotId) (d : Desc) (k : VectorId) : (s.writeVerdict n d).msgCount k = s.msgCount k := by simp [State.msgCount]

@[simp] theorem State.cutVerdict_pending (n : SlotId) : (s.cutVerdict n).pending = s.pending := by
  obtain ⟨_, _, _, _, h⟩ := State.cutVerdict_frame s n; rw [h]
@[simp] theorem State.cutVerdict_condition (n : SlotId) : (s.cutVerdict n).condition = s.condition := by
  obtain ⟨_, _, _, _, h⟩ := State.cutVerdict_frame s n; rw [h]
@[simp] theorem State.cutVerdict_intEnable (n : SlotId) : (s.cutVerdict n).intEnable = s.intEnable := by
  obtain ⟨_, _, _, _, h⟩ := State.cutVerdict_frame s n; rw [h]
@[simp] theorem State.cutVerdict_haltCause (n : SlotId) : (s.cutVerdict n).haltCause = s.haltCause := by
  obtain ⟨_, _, _, _, h⟩ := State.cutVerdict_frame s n; rw [h]
@[simp] theorem State.cutVerdict_postError (n : SlotId) : (s.cutVerdict n).postError = s.postError := by
  obtain ⟨_, _, _, _, h⟩ := State.cutVerdict_frame s n; rw [h]
@[simp] theorem State.cutVerdict_startLo (n : SlotId) : (s.cutVerdict n).startLo = s.startLo := by
  obtain ⟨_, _, _, _, h⟩ := State.cutVerdict_frame s n; rw [h]
@[simp] theorem State.cutVerdict_startHi (n : SlotId) : (s.cutVerdict n).startHi = s.startHi := by
  obtain ⟨_, _, _, _, h⟩ := State.cutVerdict_frame s n; rw [h]
@[simp] theorem State.cutVerdict_startCopy (n : SlotId) : (s.cutVerdict n).startCopy = s.startCopy := by
  obtain ⟨_, _, _, _, h⟩ := State.cutVerdict_frame s n; rw [h]
@[simp] theorem State.cutVerdict_startRead (n : SlotId) : (s.cutVerdict n).startRead = s.startRead := by
  obtain ⟨_, _, _, _, h⟩ := State.cutVerdict_frame s n; rw [h]
@[simp] theorem State.cutVerdict_startMoot (n : SlotId) : (s.cutVerdict n).startMoot = s.startMoot := by
  obtain ⟨_, _, _, _, h⟩ := State.cutVerdict_frame s n; rw [h]
@[simp] theorem State.cutVerdict_laneFitted (n : SlotId) : (s.cutVerdict n).laneFitted = s.laneFitted := by
  obtain ⟨_, _, _, _, h⟩ := State.cutVerdict_frame s n; rw [h]
@[simp] theorem State.cutVerdict_inReset (n : SlotId) : (s.cutVerdict n).inReset = s.inReset := by
  obtain ⟨_, _, _, _, h⟩ := State.cutVerdict_frame s n; rw [h]
@[simp] theorem State.cutVerdict_readData (n : SlotId) : (s.cutVerdict n).readData = s.readData := by
  obtain ⟨_, _, _, _, h⟩ := State.cutVerdict_frame s n; rw [h]
@[simp] theorem State.cutVerdict_engines (n : SlotId) : (s.cutVerdict n).engines = s.engines := by
  obtain ⟨_, _, _, _, h⟩ := State.cutVerdict_frame s n; rw [h]
@[simp] theorem State.cutVerdict_rings (n : SlotId) : (s.cutVerdict n).rings = s.rings := by
  obtain ⟨_, _, _, _, h⟩ := State.cutVerdict_frame s n; rw [h]
@[simp] theorem State.cutVerdict_roundRobin (n : SlotId) : (s.cutVerdict n).roundRobin = s.roundRobin := by
  obtain ⟨_, _, _, _, h⟩ := State.cutVerdict_frame s n; rw [h]
@[simp] theorem State.cutVerdict_recordRead (n : SlotId) : (s.cutVerdict n).recordRead = s.recordRead := by
  obtain ⟨_, _, _, _, h⟩ := State.cutVerdict_frame s n; rw [h]
@[simp] theorem State.cutVerdict_waitOrders (n : SlotId) : (s.cutVerdict n).waitOrders = s.waitOrders := by
  obtain ⟨_, _, _, _, h⟩ := State.cutVerdict_frame s n; rw [h]
@[simp] theorem State.cutVerdict_control (n : SlotId) : (s.cutVerdict n).control = s.control := by
  obtain ⟨_, _, _, _, h⟩ := State.cutVerdict_frame s n; rw [h]
@[simp] theorem State.cutVerdict_snapshotWrite (n : SlotId) : (s.cutVerdict n).snapshotWrite = s.snapshotWrite := by
  obtain ⟨_, _, _, _, h⟩ := State.cutVerdict_frame s n; rw [h]
@[simp] theorem State.cutVerdict_deferred (n : SlotId) : (s.cutVerdict n).deferred = s.deferred := by
  obtain ⟨_, _, _, _, h⟩ := State.cutVerdict_frame s n; rw [h]
@[simp] theorem State.cutVerdict_locks (n : SlotId) : (s.cutVerdict n).locks = s.locks := by
  obtain ⟨_, _, _, _, h⟩ := State.cutVerdict_frame s n; rw [h]
@[simp] theorem State.cutVerdict_lane (n : SlotId) : (s.cutVerdict n).lane = s.lane := by
  obtain ⟨_, _, _, _, h⟩ := State.cutVerdict_frame s n; rw [h]
@[simp] theorem State.cutVerdict_compRings (n : SlotId) : (s.cutVerdict n).compRings = s.compRings := by
  obtain ⟨_, _, _, _, h⟩ := State.cutVerdict_frame s n; rw [h]
@[simp] theorem State.cutVerdict_vectorPending (n : SlotId) : (s.cutVerdict n).vectorPending = s.vectorPending := by
  obtain ⟨_, _, _, _, h⟩ := State.cutVerdict_frame s n; rw [h]
@[simp] theorem State.cutVerdict_vectorMasked (n : SlotId) : (s.cutVerdict n).vectorMasked = s.vectorMasked := by
  obtain ⟨_, _, _, _, h⟩ := State.cutVerdict_frame s n; rw [h]
@[simp] theorem State.cutVerdict_messagesSent (n : SlotId) : (s.cutVerdict n).messagesSent = s.messagesSent := by
  obtain ⟨_, _, _, _, h⟩ := State.cutVerdict_frame s n; rw [h]
@[simp] theorem State.cutVerdict_freeCount (n : SlotId) : (s.cutVerdict n).freeCount = s.freeCount := by
  obtain ⟨_, _, _, _, h⟩ := State.cutVerdict_frame s n; rw [h]
@[simp] theorem State.cutVerdict_halted (n : SlotId) : (s.cutVerdict n).halted = s.halted := by simp [State.halted]
@[simp] theorem State.cutVerdict_engine (n : SlotId) (k : SlotId) : (s.cutVerdict n).engine k = s.engine k := by simp [State.engine]
@[simp] theorem State.cutVerdict_ring (n : SlotId) (k : RingId) : (s.cutVerdict n).ring k = s.ring k := by simp [State.ring]
@[simp] theorem State.cutVerdict_comp (n : SlotId) (k : CompRingId) : (s.cutVerdict n).comp k = s.comp k := by simp [State.comp]
@[simp] theorem State.cutVerdict_waitOrder (n : SlotId) (k : SlotId) : (s.cutVerdict n).waitOrder k = s.waitOrder k := by simp [State.waitOrder]
@[simp] theorem State.cutVerdict_vecPending (n : SlotId) (k : VectorId) : (s.cutVerdict n).vecPending k = s.vecPending k := by simp [State.vecPending]
@[simp] theorem State.cutVerdict_vecMasked (n : SlotId) (k : VectorId) : (s.cutVerdict n).vecMasked k = s.vecMasked k := by simp [State.vecMasked]
@[simp] theorem State.cutVerdict_msgCount (n : SlotId) (k : VectorId) : (s.cutVerdict n).msgCount k = s.msgCount k := by simp [State.msgCount]

@[simp] theorem State.settleOff_pending (n : SlotId) : (s.settleOff n).pending = s.pending := by
  obtain ⟨_, h⟩ := State.settleOff_frame s n; rw [h]
@[simp] theorem State.settleOff_condition (n : SlotId) : (s.settleOff n).condition = s.condition := by
  obtain ⟨_, h⟩ := State.settleOff_frame s n; rw [h]
@[simp] theorem State.settleOff_intEnable (n : SlotId) : (s.settleOff n).intEnable = s.intEnable := by
  obtain ⟨_, h⟩ := State.settleOff_frame s n; rw [h]
@[simp] theorem State.settleOff_haltCause (n : SlotId) : (s.settleOff n).haltCause = s.haltCause := by
  obtain ⟨_, h⟩ := State.settleOff_frame s n; rw [h]
@[simp] theorem State.settleOff_postError (n : SlotId) : (s.settleOff n).postError = s.postError := by
  obtain ⟨_, h⟩ := State.settleOff_frame s n; rw [h]
@[simp] theorem State.settleOff_startLo (n : SlotId) : (s.settleOff n).startLo = s.startLo := by
  obtain ⟨_, h⟩ := State.settleOff_frame s n; rw [h]
@[simp] theorem State.settleOff_startHi (n : SlotId) : (s.settleOff n).startHi = s.startHi := by
  obtain ⟨_, h⟩ := State.settleOff_frame s n; rw [h]
@[simp] theorem State.settleOff_startCopy (n : SlotId) : (s.settleOff n).startCopy = s.startCopy := by
  obtain ⟨_, h⟩ := State.settleOff_frame s n; rw [h]
@[simp] theorem State.settleOff_startRead (n : SlotId) : (s.settleOff n).startRead = s.startRead := by
  obtain ⟨_, h⟩ := State.settleOff_frame s n; rw [h]
@[simp] theorem State.settleOff_startMoot (n : SlotId) : (s.settleOff n).startMoot = s.startMoot := by
  obtain ⟨_, h⟩ := State.settleOff_frame s n; rw [h]
@[simp] theorem State.settleOff_laneFitted (n : SlotId) : (s.settleOff n).laneFitted = s.laneFitted := by
  obtain ⟨_, h⟩ := State.settleOff_frame s n; rw [h]
@[simp] theorem State.settleOff_inReset (n : SlotId) : (s.settleOff n).inReset = s.inReset := by
  obtain ⟨_, h⟩ := State.settleOff_frame s n; rw [h]
@[simp] theorem State.settleOff_readData (n : SlotId) : (s.settleOff n).readData = s.readData := by
  obtain ⟨_, h⟩ := State.settleOff_frame s n; rw [h]
@[simp] theorem State.settleOff_slots (n : SlotId) : (s.settleOff n).slots = s.slots := by
  obtain ⟨_, h⟩ := State.settleOff_frame s n; rw [h]
@[simp] theorem State.settleOff_engines (n : SlotId) : (s.settleOff n).engines = s.engines := by
  obtain ⟨_, h⟩ := State.settleOff_frame s n; rw [h]
@[simp] theorem State.settleOff_rings (n : SlotId) : (s.settleOff n).rings = s.rings := by
  obtain ⟨_, h⟩ := State.settleOff_frame s n; rw [h]
@[simp] theorem State.settleOff_roundRobin (n : SlotId) : (s.settleOff n).roundRobin = s.roundRobin := by
  obtain ⟨_, h⟩ := State.settleOff_frame s n; rw [h]
@[simp] theorem State.settleOff_recordRead (n : SlotId) : (s.settleOff n).recordRead = s.recordRead := by
  obtain ⟨_, h⟩ := State.settleOff_frame s n; rw [h]
@[simp] theorem State.settleOff_waitOrders (n : SlotId) : (s.settleOff n).waitOrders = s.waitOrders := by
  obtain ⟨_, h⟩ := State.settleOff_frame s n; rw [h]
@[simp] theorem State.settleOff_control (n : SlotId) : (s.settleOff n).control = s.control := by
  obtain ⟨_, h⟩ := State.settleOff_frame s n; rw [h]
@[simp] theorem State.settleOff_snapshotWrite (n : SlotId) : (s.settleOff n).snapshotWrite = s.snapshotWrite := by
  obtain ⟨_, h⟩ := State.settleOff_frame s n; rw [h]
@[simp] theorem State.settleOff_locks (n : SlotId) : (s.settleOff n).locks = s.locks := by
  obtain ⟨_, h⟩ := State.settleOff_frame s n; rw [h]
@[simp] theorem State.settleOff_lane (n : SlotId) : (s.settleOff n).lane = s.lane := by
  obtain ⟨_, h⟩ := State.settleOff_frame s n; rw [h]
@[simp] theorem State.settleOff_compRings (n : SlotId) : (s.settleOff n).compRings = s.compRings := by
  obtain ⟨_, h⟩ := State.settleOff_frame s n; rw [h]
@[simp] theorem State.settleOff_notices (n : SlotId) : (s.settleOff n).notices = s.notices := by
  obtain ⟨_, h⟩ := State.settleOff_frame s n; rw [h]
@[simp] theorem State.settleOff_slotDirty (n : SlotId) : (s.settleOff n).slotDirty = s.slotDirty := by
  obtain ⟨_, h⟩ := State.settleOff_frame s n; rw [h]
@[simp] theorem State.settleOff_ringDirty (n : SlotId) : (s.settleOff n).ringDirty = s.ringDirty := by
  obtain ⟨_, h⟩ := State.settleOff_frame s n; rw [h]
@[simp] theorem State.settleOff_vectorPending (n : SlotId) : (s.settleOff n).vectorPending = s.vectorPending := by
  obtain ⟨_, h⟩ := State.settleOff_frame s n; rw [h]
@[simp] theorem State.settleOff_vectorMasked (n : SlotId) : (s.settleOff n).vectorMasked = s.vectorMasked := by
  obtain ⟨_, h⟩ := State.settleOff_frame s n; rw [h]
@[simp] theorem State.settleOff_messagesSent (n : SlotId) : (s.settleOff n).messagesSent = s.messagesSent := by
  obtain ⟨_, h⟩ := State.settleOff_frame s n; rw [h]
@[simp] theorem State.settleOff_freeCount (n : SlotId) : (s.settleOff n).freeCount = s.freeCount := by
  obtain ⟨_, h⟩ := State.settleOff_frame s n; rw [h]
@[simp] theorem State.settleOff_halted (n : SlotId) : (s.settleOff n).halted = s.halted := by simp [State.halted]
@[simp] theorem State.settleOff_slot (n : SlotId) (k : SlotId) : (s.settleOff n).slot k = s.slot k := by simp [State.slot]
@[simp] theorem State.settleOff_engine (n : SlotId) (k : SlotId) : (s.settleOff n).engine k = s.engine k := by simp [State.engine]
@[simp] theorem State.settleOff_ring (n : SlotId) (k : RingId) : (s.settleOff n).ring k = s.ring k := by simp [State.ring]
@[simp] theorem State.settleOff_comp (n : SlotId) (k : CompRingId) : (s.settleOff n).comp k = s.comp k := by simp [State.comp]
@[simp] theorem State.settleOff_waitOrder (n : SlotId) (k : SlotId) : (s.settleOff n).waitOrder k = s.waitOrder k := by simp [State.waitOrder]
@[simp] theorem State.settleOff_dirtySlot (n : SlotId) (k : SlotId) : (s.settleOff n).dirtySlot k = s.dirtySlot k := by simp [State.dirtySlot]
@[simp] theorem State.settleOff_dirtyRing (n : SlotId) (k : RingId) : (s.settleOff n).dirtyRing k = s.dirtyRing k := by simp [State.dirtyRing]
@[simp] theorem State.settleOff_vecPending (n : SlotId) (k : VectorId) : (s.settleOff n).vecPending k = s.vecPending k := by simp [State.vecPending]
@[simp] theorem State.settleOff_vecMasked (n : SlotId) (k : VectorId) : (s.settleOff n).vecMasked k = s.vecMasked k := by simp [State.vecMasked]
@[simp] theorem State.settleOff_msgCount (n : SlotId) (k : VectorId) : (s.settleOff n).msgCount k = s.msgCount k := by simp [State.msgCount]

end Sys2Proof.Machine
end

