-- ==== Sys2Proof/Laws/Slots.lean ====
section
/-! SUPPORT. What the sequencer's shared exits of a slot can do (R29, R31 to R38, R92, R140). -/

namespace Sys2Proof.Machine

/-- Handing results over and then refusing the wait order. -/
theorem State.refuseWaiting_handedFirst (s u : State) (rs : List Completion) (n : SlotId)
    (h : s.handed u rs) : s.handedFirst (u.refuseWaiting n) rs := by
  intro c
  obtain ⟨late, h1, h2⟩ := (State.refuseWaiting_spec u n).2.2.2 c
  exact ⟨late, by rw [h1, h c], h2⟩

/-- A SLOT_POWER OFF that has been settled stands no more (R101), unless the device is halted (R120). -/
theorem State.settleOff_deferredOff (s : State) (n : SlotId) (h : s.condition ≠ .halted) :
    (s.settleOff n).deferredOff n = none := by
  have hh : s.halted = false := by simp [State.halted, h]
  unfold State.settleOff
  rw [if_neg (by simp [hh])]
  unfold State.deferredOff State.dropOff
  rw [List.findSome?_eq_none_iff]
  intro d hd
  have := (List.mem_filter.mp hd).2
  cases d <;> simp_all

theorem State.deferredOff_congr (s t : State) (n : SlotId) (h : t.deferred = s.deferred) :
    t.deferredOff n = s.deferredOff n := by
  unfold State.deferredOff; rw [h]

theorem State.stateNoticed_congr (s t : State) (n : SlotId) (h1 : t.notices = s.notices)
    (h2 : t.slotDirty = s.slotDirty) (h : s.stateNoticed n) : t.stateNoticed n := by
  unfold State.stateNoticed State.dirtySlot at *
  rw [h1, h2]; exact h

theorem State.changeNoticed_congr (s t : State) (n : SlotId) (mask : BitVec 7)
    (h1 : t.notices = s.notices) (h2 : t.slotDirty = s.slotDirty) (h : s.changeNoticed n mask) :
    t.changeNoticed n mask := by
  unfold State.changeNoticed State.dirtySlot at *
  rw [h1, h2]; exact h

/-- The completion of a standing SLOT_POWER OFF of slot `n` (R37, R38, R112). -/
def State.offResult (s : State) (n : SlotId) (status : Status) (code : Nat) : List Completion :=
  match s.deferredOff n with
  | some (tag, head) => [completionOf 0 tag n.val head status (s.slot n).generation code]
  | none => []

theorem State.offCompletion_eq (s u : State) (n : SlotId) (status : Status) (code : Nat)
    (h1 : u.deferred = s.deferred) (h2 : (u.slot n).generation = (s.slot n).generation)
    (h3 : (u.slot n).state.code = code) : u.offCompletion n status = s.offResult n status code := by
  unfold State.offCompletion State.offResult
  rw [State.deferredOff_congr s u n h1, h2, h3]
  all_goals (split <;> simp_all)

/-- The last part of an exit: notice, settled SLOT_POWER OFF, completions in an open order between two groups,
refused wait order. -/
theorem State.exit_spec (s : State) (n : SlotId) (a b : List Completion) :
    let t := (((s.notifyState n).settleOff n).handMerged [a, b]).refuseWaiting n
    t.stateNoticed n
      ∧ t = { s with
        rings := t.rings, waitOrders := t.waitOrders, compRings := t.compRings, notices := t.notices
        slotDirty := t.slotDirty, ringDirty := t.ringDirty, deferred := t.deferred
        freeCount := t.freeCount }
      ∧ (s.condition ≠ .halted → t.deferredOff n = none)
      ∧ s.handedMerged t a b
      ∧ ∀ m mask, s.changeNoticed m mask → t.changeNoticed m mask := by
  intro t
  refine ⟨?_, ?_, ?_, ?_, ?_⟩
  · exact State.stateNoticed_congr (s.notifyState n) t n (by simp [t]) (by simp [t])
      (State.notifyState_stateNoticed s n)
  · apply State.ext <;> simp [t]
  · intro h
    rw [State.deferredOff_congr ((s.notifyState n).settleOff n) t n (by simp [t])]
    exact State.settleOff_deferredOff _ n (by simpa using h)
  · obtain ⟨rs, p, q, r, hh⟩ := State.handMerged_two ((s.notifyState n).settleOff n) a b
    refine ⟨rs, p, q, r, State.refuseWaiting_handedFirst s _ rs n fun c => ?_⟩
    rw [hh c]
    congr 1
    · simp
    · exact State.goingTo_congr _ _ _ _ (by simp) (by simp)
  · intro m mask h
    exact State.changeNoticed_congr (s.notifyState n) t m mask (by simp [t]) (by simp [t])
      (State.notify_keeps_changeNoticed s _ m mask h)

/-- The slot values after a departure from a sound lane. -/
theorem State.laneDepart_slot_keeps (s : State) (n m : SlotId) (status : Status) (hl : s.lane.Sound) :
    ∃ role, (s.laneDepart n status).1.slot m = { s.slot m with laneRole := role } := by
  rw [(State.laneDepart_spec s n status hl).2.1 m]
  split
  · rename_i h; rw [h.1]; exact ⟨_, rfl⟩
  · exact ⟨_, rfl⟩

/-- What taking a powered slot to FAULT does (R31, R33, R34, R38, R123, R161, R162). -/
theorem State.faultSlot_spec (s : State) (n : SlotId) (why : Reason) (own : List Completion)
    (hl : s.lane.Sound) :
    let t := s.faultSlot n why own
    let d := s.laneDepart n .powerFault
    t.stateNoticed n
      ∧ t = { s with
        slots := t.slots, engines := t.engines, rings := t.rings, waitOrders := t.waitOrders
        compRings := t.compRings, notices := t.notices, slotDirty := t.slotDirty
        ringDirty := t.ringDirty, deferred := t.deferred, freeCount := t.freeCount, lane := t.lane }
      ∧ t.lane = d.1.lane
      ∧ (∀ m, t.slot m = if m = n then (d.1.slot n).rest .fault why else s.slot m)
      ∧ (∀ m, t.engine m = if m = n then { s.engine n with pendingList := [], heldOver := [] }
          else s.engine m)
      ∧ (s.condition ≠ .halted → t.deferredOff n = none)
      ∧ s.handedMerged t d.2
        (own ++ s.listCompletions n .poweredOff .powerFault ++ s.offResult n .success 7)
      ∧ ∀ m mask, s.changeNoticed m mask → t.changeNoticed m mask := by
  intro t d
  have hd := State.laneDepart_spec (s.clearLists n) n .powerFault hl
  have hd' := State.laneDepart_spec s n .powerFault hl
  have hs : ∀ m, ((s.clearLists n).laneDepart n .powerFault).1.slot m = d.1.slot m := by
    intro m; rw [hd.2.1, hd'.2.1]; rfl
  have hne : ∀ m, m ≠ n → d.1.slot m = s.slot m := by
    intro m hm; rw [hd'.2.1, if_neg (fun h => hm h.1)]
  have h1 : ((s.clearLists n).laneDepart n .powerFault).1.lane = d.1.lane := by
    rw [hd.1, hd'.1]; rfl
  have h2 : ((s.clearLists n).laneDepart n .powerFault).2 = d.2 := by
    rw [hd.2.2, hd'.2.2]; rfl
  obtain ⟨role, hrole⟩ := State.laneDepart_slot_keeps s n n .powerFault hl
  have hoff := State.offCompletion_eq s
    (((s.clearLists n).laneDepart n .powerFault).1.modSlot n fun x => x.rest .fault why) n .success 7
    (by simp) (by rw [State.modSlot_eq, State.setSlot_slot_same, hs, hrole]; rfl)
    (by rw [State.modSlot_eq, State.setSlot_slot_same]; rfl)
  obtain ⟨e1, e2, e3, e4, e5⟩ := State.exit_spec
    (((s.clearLists n).laneDepart n .powerFault).1.modSlot n fun x => x.rest .fault why) n d.2
    (own ++ s.listCompletions n .poweredOff .powerFault ++ s.offResult n .success 7)
  have ht : t = ((((((s.clearLists n).laneDepart n .powerFault).1.modSlot n
      fun x => x.rest .fault why).notifyState n).settleOff n).handMerged
      [d.2, own ++ s.listCompletions n .poweredOff .powerFault ++ s.offResult n .success 7]).refuseWaiting
        n := by
    rw [← h2, ← hoff]; rfl
  rw [← ht] at e1 e2 e3 e4 e5
  have hslots : t.slots = (((s.clearLists n).laneDepart n .powerFault).1.modSlot n
      fun x => x.rest .fault why).slots := by rw [e2]
  have heng : t.engines = (s.clearLists n).engines := by rw [e2]; simp
  refine ⟨e1, ?_, by rw [e2]; simp [h1], fun m => ?_, fun m => ?_, ?_, ?_, ?_⟩
  · apply State.ext <;> first | rfl | (rw [e2]; simp)
  · have : t.slot m = (((s.clearLists n).laneDepart n .powerFault).1.modSlot n
      fun x => x.rest .fault why).slot m := by unfold State.slot; rw [hslots]
    rw [this, State.modSlot_eq, State.setSlot_slot, hs n]
    split
    · rfl
    · rename_i hm; rw [hs m, hne m hm]
  · have : t.engine m = (s.clearLists n).engine m := by unfold State.engine; rw [heng]
    rw [this, State.clearLists, State.modEngine_eq, State.setEngine_engine]
  · intro h; exact e3 (by simpa using h)
  · obtain ⟨rs, p, q, r, hh⟩ := e4
    refine ⟨rs, p, q, r, fun c => ?_⟩
    obtain ⟨late, l1, l2⟩ := hh c
    refine ⟨late, ?_, l2⟩
    have hc : (((s.clearLists n).laneDepart n .powerFault).1.modSlot n fun x => x.rest .fault why).comp c
      = s.comp c := by simp
    rw [l1, hc]
    congr 2
    refine State.goingTo_congr _ _ _ _ ?_ fun q => ?_ <;> simp
  · intro m mask h
    exact e5 m mask (State.changeNoticed_congr s _ m mask (by simp) (by simp) h)

/-- What a removal does after the verdict of a cut re-parse (R29, R30, R32, R140, R148, R161, R162). -/
theorem State.removeModule_spec (s : State) (n : SlotId) (hl : s.lane.Sound) :
    let t := s.removeModule n
    let d := s.laneDepart n .removed
    t.stateNoticed n
      ∧ t = { s with
        slots := t.slots, engines := t.engines, rings := t.rings, waitOrders := t.waitOrders
        compRings := t.compRings, notices := t.notices, slotDirty := t.slotDirty
        ringDirty := t.ringDirty, deferred := t.deferred, freeCount := t.freeCount, lane := t.lane
        locks := s.locks.filter fun l => l.slot ≠ n }
      ∧ t.lane = d.1.lane
      ∧ (∀ m, t.slot m = if m = n then (d.1.slot n).emptied else s.slot m)
      ∧ (∀ m, t.engine m = ((s.cutEngine n).clearLists n).engine m)
      ∧ (s.condition ≠ .halted → t.deferredOff n = none)
      ∧ s.handedMerged t d.2
        (s.cutCompletion n .removed ++ s.listCompletions n .removed .removed
          ++ s.offResult n .removed 0)
      ∧ ∀ m mask, s.changeNoticed m mask → t.changeNoticed m mask := by
  intro t d
  have hd := State.laneDepart_spec ((s.cutEngine n).clearLists n) n .removed hl
  have hd' := State.laneDepart_spec s n .removed hl
  have hs : ∀ m, (((s.cutEngine n).clearLists n).laneDepart n .removed).1.slot m = d.1.slot m := by
    intro m; rw [hd.2.1, hd'.2.1]; rfl
  have hne : ∀ m, m ≠ n → d.1.slot m = s.slot m := by
    intro m hm; rw [hd'.2.1, if_neg (fun h => hm h.1)]
  have h1 : (((s.cutEngine n).clearLists n).laneDepart n .removed).1.lane = d.1.lane := by
    rw [hd.1, hd'.1]; rfl
  have h2 : (((s.cutEngine n).clearLists n).laneDepart n .removed).2 = d.2 := by
    rw [hd.2.2, hd'.2.2]; rfl
  obtain ⟨role, hrole⟩ := State.laneDepart_slot_keeps s n n .removed hl
  generalize hu : (((s.cutEngine n).clearLists n).laneDepart n .removed).1.modSlot n Slot.emptied = u
  have hux : u.slots = ((((s.cutEngine n).clearLists n).laneDepart n .removed).1.modSlot n
      Slot.emptied).slots := by rw [hu]
  have hoff := State.offCompletion_eq s { u with locks := u.locks.filter fun l => l.slot ≠ n } n .removed 0
    (by rw [← hu]; simp)
    (by show (u.slot n).generation = _
        rw [← hu, State.modSlot_eq, State.setSlot_slot_same, hs, hrole]; rfl)
    (by show (u.slot n).state.code = _
        rw [← hu, State.modSlot_eq, State.setSlot_slot_same]; rfl)
  obtain ⟨e1, e2, e3, e4, e5⟩ := State.exit_spec { u with locks := u.locks.filter fun l => l.slot ≠ n } n d.2
    (s.cutCompletion n .removed ++ s.listCompletions n .removed .removed ++ s.offResult n .removed 0)
  have ht : t = (((State.notifyState { u with locks := u.locks.filter fun l => l.slot ≠ n } n).settleOff
      n).handMerged [d.2, s.cutCompletion n .removed ++ s.listCompletions n .removed .removed
        ++ s.offResult n .removed 0]).refuseWaiting n := by
    rw [← h2, ← hoff, ← hu]; rfl
  rw [← ht] at e1 e2 e3 e4 e5
  have heng : t.engines = ((s.cutEngine n).clearLists n).engines := by rw [e2, ← hu]; simp
  refine ⟨e1, ?_, by rw [e2, ← hu]; simp [h1], fun m => ?_, fun m => ?_, ?_, ?_, ?_⟩
  · apply State.ext <;> first | rfl | (rw [e2, ← hu]; simp)
  · have : t.slot m = u.slot m := by unfold State.slot; rw [e2]
    rw [this, ← hu, State.modSlot_eq, State.setSlot_slot, hs n]
    split
    · rfl
    · rename_i hm; rw [hs m, hne m hm]
  · unfold State.engine; rw [heng]
  · intro h; exact e3 (by rw [← hu]; simpa using h)
  · obtain ⟨rs, p, q, r, hh⟩ := e4
    refine ⟨rs, p, q, r, fun c => ?_⟩
    obtain ⟨late, l1, l2⟩ := hh c
    refine ⟨late, ?_, l2⟩
    have hc : State.comp { u with locks := u.locks.filter fun l => l.slot ≠ n } c = s.comp c := by
      show u.comp c = s.comp c
      rw [← hu]; simp
    rw [l1, hc]
    congr 2
    exact State.goingTo_congr _ _ _ _ (by show u.halted = _; rw [← hu]; simp)
      (by intro q; show (u.ring q).bound = _; rw [← hu]; simp)
  · intro m mask h
    exact e5 m mask (State.changeNoticed_congr s _ m mask (by show u.notices = _; rw [← hu]; simp)
      (by show u.slotDirty = _; rw [← hu]; simp) h)

/-- The verdict of a cut re-read writes the descriptor fields alone, with their notice (R76, R77, R79). -/
theorem State.cutVerdict_slot (s : State) (n m : SlotId) : (s.cutVerdict n).slot m =
    if m = n then { s.slot n with desc := ((s.cutVerdict n).slot n).desc } else s.slot m := by
  unfold State.cutVerdict State.writeVerdict
  split
  · split
    · dsimp only
      split <;> by_cases h : m = n <;> simp [State.modSlot_eq, State.setSlot_slot, h]
    · by_cases h : m = n <;> simp [h]
  · by_cases h : m = n <;> simp [h]

/-- The fields that a cut leaves (R31, R77, R79): ABSENT after a cut re-parse or REFRESH, else as they stood. -/
theorem State.cutVerdict_desc (s : State) (n : SlotId) : ((s.cutVerdict n).slot n).desc =
    if (s.engine n).exec.any (fun x => x.stage.rereads) then Desc.raw .absent else (s.slot n).desc := by
  unfold State.cutVerdict State.writeVerdict
  cases hx : (s.engine n).exec with
  | none => rfl
  | some x =>
    cases hs : x.stage.rereads <;> simp only [hs, Option.any_some, if_true]
    · rfl
    · split <;> simp [State.modSlot_eq]

/-- A cut re-read whose verdict changes an item has its notice handed over (R76, R77, R79). -/
theorem State.cutVerdict_changeNoticed (s : State) (n : SlotId) (x : Execution)
    (hx : (s.engine n).exec = some x) (hs : x.stage.rereads = true)
    (hm : changeMask (s.slot n).desc (Desc.raw .absent) ≠ 0) :
    (s.cutVerdict n).changeNoticed n (changeMask (s.slot n).desc (Desc.raw .absent)) := by
  unfold State.cutVerdict State.writeVerdict
  simp only [hx, hs, if_true]
  rw [if_neg hm]
  exact State.notify_changeNoticed _ n _

/-- What a removal does (R29, R30, R32, R77, R79, R140, R148, R161, R162). -/
theorem State.remove_spec (s : State) (n : SlotId) (hl : s.lane.Sound) :
    let t := s.remove n
    let d := s.laneDepart n .removed
    t.stateNoticed n
      ∧ t = { s with
        slots := t.slots, engines := t.engines, rings := t.rings, waitOrders := t.waitOrders
        compRings := t.compRings, notices := t.notices, slotDirty := t.slotDirty
        ringDirty := t.ringDirty, deferred := t.deferred, freeCount := t.freeCount, lane := t.lane
        locks := s.locks.filter fun l => l.slot ≠ n }
      ∧ t.lane = d.1.lane
      ∧ (∀ m, t.slot m = if m = n then (d.1.slot n).emptied else s.slot m)
      ∧ (∀ m, t.engine m = ((s.cutEngine n).clearLists n).engine m)
      ∧ (s.condition ≠ .halted → t.deferredOff n = none)
      ∧ s.handedMerged t d.2
        (s.cutCompletion n .removed ++ s.listCompletions n .removed .removed
          ++ s.offResult n .removed 0)
      ∧ ∀ m mask, (s.cutVerdict n).changeNoticed m mask → t.changeNoticed m mask := by
  intro t d
  have hl' : (s.cutVerdict n).lane.Sound := by simpa using hl
  obtain ⟨h1, h2, h3, h4, h5, h6, h7, h8⟩ := State.removeModule_spec (s.cutVerdict n) n hl'
  have hd := State.laneDepart_spec s n .removed hl
  have hd' := State.laneDepart_spec (s.cutVerdict n) n .removed hl'
  have hc := State.cutVerdict_slot s n
  have hg : ((s.cutVerdict n).slot n).generation = (s.slot n).generation := by rw [hc]; simp
  have hx := State.cutVerdict_slot s n n
  rw [if_pos rfl] at hx
  refine ⟨h1, ?_, ?_, fun m => ?_, fun m => ?_, fun h => h6 (by simpa using h), ?_, h8⟩
  · show (s.cutVerdict n).removeModule n = _
    apply State.ext <;> first | rfl | (rw [h2]; simp)
  · show ((s.cutVerdict n).removeModule n).lane = _
    rw [h3, hd'.1, hd.1]; simp
  · show ((s.cutVerdict n).removeModule n).slot m = _
    rw [h4]
    split
    · rw [hd'.2.1, hd.2.1]
      simp only [true_and, State.cutVerdict_lane]
      split <;> rw [hx] <;> rfl
    · rename_i hm; rw [hc, if_neg hm]
  · show ((s.cutVerdict n).removeModule n).engine m = _
    rw [h5]
    simp only [State.cutEngine, State.clearLists, State.modEngine_eq, State.setEngine_engine]
    split <;> simp
  · show s.handedMerged ((s.cutVerdict n).removeModule n) _ _
    have e1 : (s.cutVerdict n).cutCompletion n .removed = s.cutCompletion n .removed := by
      unfold State.cutCompletion; rw [hg]; simp
    have e2 : (s.cutVerdict n).listCompletions n .removed .removed
        = s.listCompletions n .removed .removed := by
      unfold State.listCompletions; rw [hg]; simp
    have e3 : (s.cutVerdict n).offResult n .removed 0 = s.offResult n .removed 0 := by
      unfold State.offResult; rw [hg, State.deferredOff_congr s (s.cutVerdict n) n (by simp)]
    have e4 : ((s.cutVerdict n).laneDepart n .removed).2 = d.2 := by
      rw [hd'.2.2, hd.2.2, hg]; simp
    rw [e1, e2, e3, e4] at h7
    obtain ⟨rs, p, q, r, hh⟩ := h7
    refine ⟨rs, p, q, r, fun c => ?_⟩
    obtain ⟨late, l1, l2⟩ := hh c
    refine ⟨late, ?_, l2⟩
    rw [l1]
    congr 2
    · simp
    · exact State.goingTo_congr _ _ _ _ (by simp) (by simp)

end Sys2Proof.Machine
end

