-- ==== Sys2Proof/WellFormed.lean ====
section
/-! DEFINITION. Which commands describe an event a bus or a host link can bring at all: the limits that the
operand types do not already carry. -/

namespace Sys2Proof

/-- A read transaction carries 1 to 256 data bytes: it never crosses a block boundary (R47). -/
def ReadOutcome.wf : ReadOutcome → Bool
  | .data bytes => 1 ≤ bytes.length && bytes.length ≤ Config.blockBytes
  | .unanswered => true

/-- A piece holds at most 32 data bytes (R49), so at most 31 are acknowledged before a refused one. -/
def WriteOutcome.wf : WriteOutcome → Bool
  | .sent | .unanswered => true
  | .dataRefused acked => acked < 32

/-- As for a transaction's own ending; a read may be closed before its first data byte. -/
def MarkClose.wf : MarkClose → Bool
  | .clean received => received.length ≤ Config.blockBytes
  | .addressRefused => true
  | .dataRefused acked => acked < 32

/-- A host read for a WRITE or COMPARE delivers 1 to 2048 bytes (R88, R127). -/
def hostDataWf : Option (List Byte) → Bool
  | none => true
  | some d => 1 ≤ d.length && d.length ≤ Config.rawCapacity

/-- A command is well formed when its operands are ones the part's surroundings can bring. -/
def Instr.wf : Instr → Bool
  | .readTransaction _ o => o.wf
  | .writeTransaction _ o => o.wf
  | .abortMark _ c => c.wf
  | .hostReadDone _ d => hostDataWf d
  | .registerWrite offset _ => offset % 4 == 0
  | .detAsserted _ | .detEdge _ _ | .settleTimerExpiry _ | .probeTimerExpiry _ _ _ | .pgAsserted _
  | .pgTimerExpiry _ | .wakeTimerExpiry _ | .pgDeasserted _ | .removal _ | .protChange _ _
  | .pollWaitExpiry _ | .poll _ _ | .retryWaitExpiry _ | .stuckEpisode _ _ _ | .recoveryEnd _ _ _
  | .post _ _ | .taken _ _ | .fetchStart | .recordReadDone _ | .completionWriteDone _
  | .completionWriteFailed _ | .noticeWriteDone | .noticeWriteFailed | .createRequestRing
  | .deleteRequestRing | .createCompletionRing | .deleteCompletionRing | .setNoticeRing
  | .configureSlot | .slotPowerOn | .slotPowerOff | .readSlotRecord | .snapshotWriteDone _ | .abort
  | .laneControlEnable | .laneControlDisable | .read _ | .write _ | .compare _ | .refresh _ | .lock _
  | .unlock _ | .hostWriteDone _ _ | .settleTimerExpiryLane | .waitTimerExpiry _ | .laneStrapChange _
  | .enable _ _ | .reset _ _ | .intEnable _ | .resetBusyClear | .functionLevelReset | .devstatRead
  | .startRecordReadDone _ | .maskChange _ _ | .linkReset | .powerOnReset | .resetRelease => true

end Sys2Proof
end

