-- ==== Sys2Proof/Tests/Slice0.lean ====
section
/-! SUPPORT. Tests: an ill-formed command for each check of WellFormed, the manual's worked values, single steps
with results read from the manual, and a witness for the hypotheses of each statement. -/

namespace Sys2Proof.Tests

open Sys2Proof.Machine

/-! ### Helpers -/

/-- The state a command leaves, for a look at one field of it. -/
def after (o : Host.Outcome State Fault Refusal) : State :=
  match o with
  | .next t => t
  | .fault _ | .refused _ => State.reset

/-- The command answers a next state. -/
def isNext (o : Host.Outcome State Fault Refusal) : Bool :=
  match o with
  | .next _ => true
  | .fault _ | .refused _ => false

def le (k v : Nat) : List Nat := (List.range k).map fun i => v / 256 ^ i % 256

/-- A request record in the layout of R184. -/
def record (kind tag slot generation address length aux buffer : Nat) : Vector Byte 32 :=
  let l := [kind, 0] ++ le 2 tag ++ [slot, 0] ++ le 2 generation ++ le 2 address ++ le 2 length
    ++ le 4 aux ++ le 8 buffer
  Vector.ofFn fun i => BitVec.ofNat 8 (l.getD i.val 0)

/-- A start record in the layout of R183. -/
def startRecord (base size compBase compSize : Nat) : Vector Byte 32 :=
  let l := le 8 base ++ le 2 size ++ le 6 0 ++ le 8 compBase ++ le 2 compSize
  Vector.ofFn fun i => BitVec.ofNat 8 (l.getD i.val 0)

/-- The header of section 4.7, with the bytes 0, 4, 17 and 31 given. -/
def header (magic ext protectEnd check : Nat) : List Byte :=
  ([magic, 0x5A, 1, 6, ext, 0x51, 0, 3, 0, 1, 2, 3, 4, 5, 6, 7, 8, protectEnd] ++ List.replicate 13 0
    ++ [check]).map (BitVec.ofNat 8)

/-- The extension area of section 4.7, with the bytes 37, 39 and 44 given. -/
def area (lane unknown check : Nat) : List Byte :=
  [1, 2, 0x23, 0, 2, lane, 2, unknown, 1, if unknown = 2 then 3 else 0x7E, 0, 1, check].map
    (BitVec.ofNat 8)

/-- What the header of an area of 13 bytes says, as far as the walk needs it. -/
def extension0 : Header :=
  { capacity := 1024, pageSize := 16, extLength := 13, protectEnd := 64, closed := false
    identity := { vendor := 0x51, kind := 3, serial := Vector.replicate 8 0 } }

def ring1 : RequestRing :=
  { state := .active, base := 0x1000, size := 16, head := 0, tail := 2, bound := some 1
    staging := .empty, tags := [5] }

def comp1 : CompletionRing :=
  { active := true, base := 0x2000, size := 16, produce := 0, consumed := 0, phase := true
    unconsumed := 0, reserved := 1, vector := some 1, queue := [], writing := none }

/-- A RUNNING device with rings 0 and 1 ACTIVE and bound to completion rings 0 and 1. -/
def running : State :=
  { ((((State.reset.setRing 0 { ring1 with bound := some 0, tags := [9] }).setRing 1 ring1).setComp 0
      { comp1 with vector := some 0 }).setComp 1 comp1) with condition := .running }

def readySlot : Slot :=
  { Slot.initial false true true true true with
    state := .ready, generation := 1, supplyClass := .s33, pwren := true
    desc := { Desc.raw .valid with
      capacity := 1024, pageSize := 16, protectEnd := some 64, laneWidth := some 2, span := 45 } }

def probingSlot (p : Probe) : Slot :=
  { Slot.initial false true false true true with state := .probing, generation := 1, probe := some p }

def poweringSlot : Slot :=
  { Slot.initial false true false true true with
    state := .powering, generation := 1, pwren := true, pgTimer := some 100 }

def entry (k : Kind) : Entry :=
  { kind := k, ring := 1, tag := 5, generation := 0, address := 30, length := 40, buffer := 0x3000
    ringHead := 1 }

def execution (k : Kind) (stage : Stage) : Execution :=
  { entry := entry k, seen := readySlot.seen, stage := stage, next := 30, bytesDone := 0
    abortMark := false }

/-- Slot 0 READY with this engine. -/
def withEngine (e : Engine) : State := (running.setSlot 0 readySlot).setEngine 0 e

def withSlot (x : Slot) : State := running.setSlot 0 x

def writing (phase : BusPhase) (polls : Nat) (x : Execution) : Engine :=
  { Engine.initial with phase := phase, pollCounter := polls, piece := some ⟨30, 2⟩, exec := some x }

/-- The kind of the control request in execution. -/
def kindInControl (s : State) : Option Kind := s.control.map fun c => c.req.kind

/-- The control unit with a request in execution. -/
def withControl (s : State) (k : Kind) (slot : SlotId) (aux : Word) : State :=
  let q : Request := { kind := k, tag := 9, slot := slot, generation := 0, address := 0, length := 0
                       aux := aux, buffer := 0x4000 }
  { s with control := some { req := q, ringHead := 1 } }

/-- A record read of ring 1 in progress. -/
def fetching : State :=
  { (running.setRing 1 { ring1 with staging := .fetching }) with
    recordRead := some { ring := 1, address := 0x1000, moot := false } }

/-- The lane HELD by slot 0 for ring 1, slot 1 waiting. -/
def waiter1 : Waiter :=
  { slot := 1, ring := 1, tag := 6, generation := 1, ringHead := 1, limit := 50, timer := some 50 }

def heldLane : Lane :=
  { state := .held, holder := some 0, holderRing := some 1, waiters := [waiter1], settleTimer := none
    settleInterval := 2, lsel := 0, len := true }

def onLane (l : Lane) : State :=
  { (running.setSlot 0 { readySlot with laneRole := .holder }).setSlot 1
      { readySlot with laneRole := .waiter } with lane := l }

/-! ### WellFormed refuses -/

theorem test_wf_refuses_empty_read : (Instr.readTransaction 0 (.data [])).wf = false := by decide

theorem test_wf_refuses_long_read : (Instr.readTransaction 0 (.data (List.replicate 257 0))).wf = false := by
  rw [Instr.wf, ReadOutcome.wf, List.length_replicate]; decide

theorem test_wf_refuses_long_piece : (Instr.writeTransaction 0 (.dataRefused 32)).wf = false := by decide

theorem test_wf_refuses_long_mark : (Instr.abortMark 0 (.dataRefused 32)).wf = false := by decide

theorem test_wf_refuses_long_marked_read :
    (Instr.abortMark 0 (.clean (List.replicate 257 0))).wf = false := by
  rw [Instr.wf, MarkClose.wf, List.length_replicate]; decide

theorem test_wf_refuses_no_host_data : (Instr.hostReadDone 0 (some [])).wf = false := by decide

theorem test_wf_refuses_misaligned_register : (Instr.registerWrite 0x06 0).wf = false := by decide

theorem test_wf_takes_block_and_register :
    (Instr.readTransaction 0 (.data (List.replicate 256 0))).wf = true
      ∧ (Instr.writeTransaction 0 (.dataRefused 31)).wf = true
      ∧ (Instr.registerWrite 0x18 0).wf = true := by
  rw [Instr.wf, ReadOutcome.wf, List.length_replicate]; decide

/-! ### The manual's worked values -/

/-- Section 12, R186: the default configuration reads 0x0C8528F1. -/
theorem test_default_settings_word : SlotConfig.default.encode = 0x0C8528F1 := by decide

/-- Section 4.7: the header passes, with capacity 1024, page 16, protect end 64, open. -/
theorem test_example_header_passes :
    ∃ h, parseHeader (header 0xC3 0x0D 0x40 0x17) = .inr h ∧ h.capacity = 1024 ∧ h.pageSize = 16
      ∧ h.extLength = 13 ∧ h.protectEnd = 64 ∧ h.closed = false ∧ h.identity.vendor = 0x51
      ∧ h.identity.kind = 3 := ⟨_, rfl, by decide⟩

/-- Section 4.7, variation: bytes 0 and 1 wrong give INVALID(MAGIC). -/
theorem test_example_magic : parseHeader (header 0xFF 0x0D 0x40 0x17) = .inl .magic := by decide

/-- Section 4.7, variation: protect end 16 is raised to 45. -/
theorem test_example_protect_end_raised :
    ∃ h, parseHeader (header 0xC3 0x0D 0x10 0x47) = .inr h ∧ h.protectEnd = 45 := ⟨_, rfl, by decide⟩

def exampleHeader (ext : Nat) : Header :=
  { capacity := 1024, pageSize := 16, extLength := ext, identity := identityOf [], protectEnd := 64
    closed := false }

/-- Section 4.7: the extension stage gives VALID with budget 35, width 2, one unknown entry, span 45. -/
theorem test_example_area_valid :
    (parseExtension (exampleHeader 13) (area 1 0x40 0x15)).state = .valid
      ∧ (parseExtension (exampleHeader 13) (area 1 0x40 0x15)).powerBudget = some 35
      ∧ (parseExtension (exampleHeader 13) (area 1 0x40 0x15)).laneWidth = some 2
      ∧ (parseExtension (exampleHeader 13) (area 1 0x40 0x15)).label = none
      ∧ (parseExtension (exampleHeader 13) (area 1 0x40 0x15)).unknownCount = some 1
      ∧ (parseExtension (exampleHeader 13) (area 1 0x40 0x15)).span = 45 := by decide

/-- Section 4.7, the four variations of the extension area. -/
theorem test_example_area_invalid :
    (parseExtension (exampleHeader 13) (area 1 0x40 0x16)).state = .invalid .extCheck
      ∧ (parseExtension (exampleHeader 12) ((area 1 0x40 0x15).take 12)).state = .invalid .extOverrun
      ∧ (parseExtension (exampleHeader 13) (area 1 2 0x15)).state = .invalid .duplicateEntry
      ∧ (parseExtension (exampleHeader 13) (area 2 0x40 0x15)).state = .invalid .entryLength := by decide

/-- R49: 40 bytes from offset 30 with 16-byte pages begin with pieces of 2 and 16 bytes and end with 6; 32 bytes
from offset 33 with 32-byte pages begin with 31. -/
theorem test_example_pieces :
    pieceAt 16 30 70 = { start := 30, length := 2 } ∧ pieceAt 16 32 70 = { start := 32, length := 16 }
      ∧ pieceAt 16 64 70 = { start := 64, length := 6 } ∧ pieceAt 32 33 65 = { start := 33, length := 31 }
      ∧ pieceAt 32 32 64 = { start := 32, length := 32 } := by decide

/-- R44: address 300 lies in block 1 at offset 44. -/
theorem test_example_read_frame : readFrame 300 = [0xB2, 0x2C, 0xB3] := by decide

/-! ### Single steps -/

/-- R18: an insertion starts a settle timer of 5 steps of 10 ms. -/
theorem test_step_insertion :
    ((after (exec (.detAsserted 0) State.reset)).slot 0).state = .settling
      ∧ ((after (exec (.detAsserted 0) State.reset)).slot 0).settleTimer = some 50 := by decide

/-- R4: the generation after 65535 is 1. -/
theorem test_step_generation_wraps :
    ((after (exec (.settleTimerExpiry 0) (withSlot
      { Slot.initial false true false true true with
        state := .settling, settleTimer := some 50, generation := 65535 }))).slot 0).generation = 1 := by
  decide

/-- R5, R23: SENA GROUND and SENB OPEN, read alike in both passes, power the slot at 3.3 V. -/
theorem test_step_probe_powers :
    ((after (exec (.probeTimerExpiry 0 false true) (withSlot (probingSlot
      { repeatAttempt := false, secondPass := true, highPhase := true, lowA := false, lowB := true
        firstPair := some ⟨.ground, .open⟩ })))).slot 0).state = .powering
      ∧ ((after (exec (.probeTimerExpiry 0 false true) (withSlot (probingSlot
      { repeatAttempt := false, secondPass := true, highPhase := true, lowA := false, lowB := true
        firstPair := some ⟨.ground, .open⟩ })))).slot 0).supplyClass = .s33 := by decide

/-- Section 11, the example: a completion ring of 1 entry halts the device with START_RECORD. -/
theorem test_step_bad_start_record :
    (after (exec (.startRecordReadDone ⟨false, some (startRecord 0x1000 64 0x2000 1)⟩)
      { State.reset with condition := .starting, startRead := some 0x40 })).condition = .halted
      ∧ (after (exec (.startRecordReadDone ⟨false, some (startRecord 0x1000 64 0x2000 1)⟩)
      { State.reset with condition := .starting, startRead := some 0x40 })).haltCause = .startRecord := by
  decide

/-- Section 11, the example corrected: the record is accepted, and READY reads set. -/
theorem test_step_good_start_record :
    (after (exec (.startRecordReadDone ⟨false, some (startRecord 0x1000 64 0x2000 64)⟩)
      { State.reset with condition := .starting, startRead := some 0x40 })).condition = .running
      ∧ ((after (exec (.startRecordReadDone ⟨false, some (startRecord 0x1000 64 0x2000 64)⟩)
      { State.reset with condition := .starting, startRead := some 0x40 })).ring 0).size = 64 := by
  decide

/-- R83: a POST to a halted device sets POST_ERROR, and R177: DEVSTAT then reads HALTED, the cause
START_RECORD and POST_ERROR. -/
theorem test_step_post_while_halted :
    (after (exec (.post 0 1) { running with condition := .halted })).postError = true := by decide

theorem test_step_devstat_reads :
    (after (exec .devstatRead { running with
      condition := .halted, haltCause := .startRecord, postError := true })).readData = 0x112 := by decide

/-- R88: a READ of 2049 bytes' end is OUT_OF_RANGE with the range's end as detail. -/
theorem test_validate_range_end :
    validate 1 [] (record 1 7 0 0 2040 9 0 0).toList = .refuse .outOfRange 2049 := by decide

/-- R88: ring 1 carries no control kind, and slot 8 does not exist. -/
theorem test_validate_wrong_fields :
    validate 1 [] (record 1 7 8 0 0 4 0 0).toList = .refuse .invalidField 4
      ∧ validate 1 [] (record 0x15 7 0 0 0 0 0 0).toList = .refuse .invalidKind 0x15
      ∧ validate 0 [] (record 1 7 0 0 0 4 0 0).toList = .refuse .invalidKind 1 := by decide

/-- R51: polling goes on up to the limit of 40 and ends WRITE_TIMEOUT with the piece's start above it. -/
theorem test_step_poll_limit :
    ((after (exec (.poll 0 false) (withEngine { Engine.initial with
      phase := .polling, pollCounter := 40, piece := some ⟨30, 2⟩
      exec := some (execution .write .pieces) }))).comp 1).writing.map
        (fun w => (w.1.status, w.1.detail, w.1.bytesDone, w.1.pageUncertain))
      = some (.writeTimeout, 30, 0, true) := by decide

/-- R94, R185: that WRITE_TIMEOUT is written to the first place of its ring under PHASE 1 with PAGE_UNCERTAIN, and
when that write ends, at the last place of the ring, the next result to place 0 under PHASE 0. -/
theorem test_step_record_write_issued :
    let s := withEngine { Engine.initial with
      phase := .polling, pollCounter := 40, piece := some ⟨30, 2⟩, exec := some (execution .write .pieces) }
    let t := after (exec (.poll 0 false) s)
    let u := { t.comp 1 with produce := 15, queue := [completionOf 1 6 0 2 .aborted 1 0x01020304] }
    let v := after (exec (.completionWriteDone 1) (t.setComp 1 u))
    (t.comp 1).writing.map (fun w => w.2)
        = some ⟨0x2000, [5, 0, 1, 22, 0, 3, 1, 0, 0, 0, 1, 0, 30, 0, 0, 0], false⟩
      ∧ (v.comp 1).writing.map (fun w => w.2)
        = some ⟨0x2000, [6, 0, 1, 27, 0, 0, 1, 0, 0, 0, 2, 0, 4, 3, 2, 1], false⟩
      ∧ (v.comp 1).queue = [] := by decide

/-- R166, R186: a RING_FAULT notice written at once, with the ring FAULTED, BAD_TAIL and its head 3. -/
theorem test_step_notice_at_once :
    let s := running.setRing 1 { ring1 with head := 3 }
    let n := { NoticeRing.absent with active := true, base := 0x5000, size := 4, produce := 2 }
    (after (exec (.post 1 16) { s with notices := n })).notices.writing.map (fun w => w.2)
      = some ⟨0x5020, [3, 1, 2, 0, 0, 0, 0, 0, 1, 0, 0, 0, 1, 0, 3, 0], false⟩ := by decide

/-- R187: the first twelve bytes of the snapshot of a READY slot, and its settings, which read 0x0C8528F1. -/
theorem test_snapshot_bytes :
    (readySlot.snapshot 6).take 12 = [6, 5, 0, 8, 1, 0, 0, 0, 1, 1, 0, 16]
      ∧ ((readySlot.snapshot 6).drop 40).take 4 = [0xF1, 0x28, 0x85, 0x0C] := by decide

/-- R130: a COMPARE that differs at its third byte ends MISMATCH with that descriptor address. R57, R117: a marked
READ whose transaction ran to its end opens no further block and ends ABORTED. -/
theorem test_step_read_transaction_ends :
    let x := { execution .read .busRead with
      entry := { entry .read with address := 250 }, next := 250, abortMark := true }
    let differing := List.replicate 2 0 ++ [1] ++ List.replicate 37 0
    let t := fun (bytes : List Byte) (y : Execution) => after (exec (.readTransaction 0 (.data bytes))
      (withEngine { Engine.initial with phase := .receiving, exec := some y }))
    ((t differing (execution .compare .busRead)).comp 1).writing.map
        (fun w => (w.1.status, w.1.detail)) = some (.mismatch, 32)
      ∧ ((t [1, 2, 3, 4, 5, 6] x).comp 1).writing.map (fun w => (w.1.status, w.1.bytesDone))
        = some (.aborted, 0)
      ∧ ((t [1, 2, 3, 4, 5, 6] x).engine 0).phase = .idle := by decide

/-- R47: bytes that have come are in the data buffer with the transaction open, so a stuck episode leaves them there,
and a function reset goes on placing those of a READ that a halt left closing. -/
theorem test_step_received_bytes_placed :
    let t := after (exec (.readTransaction 0 (.data [7, 8]))
      (withEngine { Engine.initial with phase := .addressing, exec := some (execution .read .busRead) }))
    let closing := { Engine.initial with phase := .receiving, closing := true, closeFill := some (0, 40) }
    let u := after (exec (.reset false false) { withEngine closing with condition := .halted })
    ((t.engine 0).buffer, (t.engine 0).phase) = ([(0, 7), (1, 8)], .receiving)
      ∧ ((after (exec (.stuckEpisode 0 .sclLow false) t)).engine 0).buffer = [(0, 7), (1, 8)]
      ∧ ((after (exec (.readTransaction 0 (.data [9])) u)).engine 0).buffer = [(0, 9)] := by decide

/-- R153: the release of a lane with a waiter settles, then the waiter's slot is GRANTED. -/
theorem test_step_lane_granted :
    (after (exec .settleTimerExpiryLane (onLane { heldLane with
      state := .settling, holder := none, holderRing := none, settleTimer := some 2
      len := false }))).lane.holder = some 1 := by decide

/-- R172: a masked vector stays pending; unmasked, its message leaves. -/
theorem test_step_unmask_sends :
    ((after (exec (.maskChange 1 false) ({ running with intEnable := true }.setVecPending 1 true))).msgCount 1)
      = 1 := by decide

/-- R48: the third refusal of a slot's first read leaves it READY with descriptor ABSENT. -/
theorem test_step_no_module_answer :
    ((after (exec (.readTransaction 0 .unanswered) ((withSlot { readySlot with state := .reading }).setEngine
      0 { Engine.initial with phase := .addressing, attempt := 3, descRead := some .header }))).slot 0).desc
      = Desc.raw .absent := by decide

/-- R30: a removal between a confirmed piece and the START of the next reports no uncertain page. -/
theorem test_step_removal_between_pieces :
    let s := withEngine (writing .polling 0 (execution .write .pieces))
    ((after (exec (.removal 0) (after (exec (.poll 0 true) s)))).comp 1).writing.map
        (fun w => (w.1.status, w.1.bytesDone, w.1.detail, w.1.pageUncertain))
      = some (.removed, 2, 0, false) := by decide

/-- R77: a re-parse cut by a removal changes the descriptor state, which is noticed. -/
theorem test_step_cut_reparse_noticed :
    let s := withEngine { Engine.initial with
      phase := .receiving, descRead := some .header, exec := some (execution .write (.reparse .success)) }
    ((after (exec (.removal 0) s)).dirtySlot 0).changedKind = true := by decide

/-- R77, R79: a REFRESH that a power loss cuts leaves descriptor ABSENT in FAULT, and its completion has no flag. -/
theorem test_step_cut_refresh_absent :
    let t := after (exec (.pgDeasserted 0) (withEngine { Engine.initial with
      phase := .receiving, descRead := some .header, exec := some (execution .refresh .refreshing) }))
    (t.slot 0).state = .fault ∧ (t.slot 0).desc.state = .absent ∧ (t.dirtySlot 0).changedKind = true
      ∧ (t.comp 1).writing.map (fun w => (w.1.status, w.1.detail, w.1.reparseFailed))
        = some (.powerFault, 0, false) := by decide

/-- R172: a function-level reset while a function reset runs sets every mask indication. -/
theorem test_step_reset_masks_in_resetting :
    ∀ v, (after (exec .functionLevelReset { running with
      condition := .resetting, vectorMasked := Vector.replicate 5 false })).vecMasked v = true := by decide

/-- R178: the end of a start record's read that a reset made moot is disregarded. -/
theorem test_step_moot_start_read :
    let t := after (exec (.startRecordReadDone ⟨true, some (startRecord 0x1000 16 0x2000 16)⟩)
      { State.reset with condition := .starting, startRead := some 0x40, startMoot := 1 })
    t.condition = .starting ∧ t.startMoot = 0 := by decide

/-! ### Witnesses: states and operands that meet the hypotheses of each statement, clause by clause -/

theorem resetLane_sound : Lane.initial.Sound := by unfold Lane.Sound; decide

theorem heldLane_sound : heldLane.Sound := by unfold Lane.Sound; decide

def settlingLane : Lane :=
  { heldLane with state := .settling, holder := none, holderRing := none, settleTimer := some 2, len := false }

theorem settlingLane_sound : settlingLane.Sound := by unfold Lane.Sound; decide

/-- CommandsLeaveQueueAlone. -/
theorem witness_CommandsLeaveQueueAlone : isNext (exec .fetchStart running) = true := by decide

/-- The state of the invariants' witnesses: the lane held and waited for, a lock, a READ at the front, and the
reservations of its two requests. -/
def sound : State :=
  { (((((onLane heldLane).setEngine 0 { Engine.initial with
      pendingList := [entry .read], buffer := [(2047, 1)] }).setRing 0 { ring1 with bound := some 0, tags := [] }).setRing
      1 { ring1 with tags := [5, 6] }).setComp 0 { comp1 with reserved := 0 }).setComp 1
      { comp1 with reserved := 2, unconsumed := 13, produce := 13 } with
    locks := [{ slot := 0, start := 30, length := 4, owner := 1 }]
    pending := [.read 0] }

theorem sound_staging_empty : ∀ r, (sound.ring r).staging = .empty := by decide

theorem sound_slotsSound : sound.SlotsSound := by unfold State.SlotsSound Slot.Sound; decide

theorem sound_tagsSound (r : RingId) : (sound.ring r).TagsSound := by
  have h : ∀ r, (sound.ring r).tags.Nodup := by decide
  exact ⟨h r, fun q hq => by rw [sound_staging_empty r] at hq; cases hq⟩

theorem sound_requestsSound : sound.RequestsSound := by
  intro _
  have idle : sound.recordRead = none := by decide
  have bound : ∀ r, (sound.ring r).bound.all (fun c => (sound.comp c).active) = true := by decide
  refine ⟨fun r => ⟨sound_tagsSound r, ?_, ?_, ?_, ?_, ?_, ?_, ?_, ?_⟩, by decide, by decide, by decide,
    .nil⟩
  · revert r; decide
  · revert r; decide
  · rw [sound_staging_empty r, idle]; exact ⟨(nomatch ·), fun ⟨_, h, _⟩ => (nomatch h)⟩
  · revert r; decide
  · revert r; decide
  · intro c hc; have := bound r; rw [hc] at this; exact this
  · revert r; decide
  · revert r; decide

theorem sound_waitOrdersSound : sound.WaitOrdersSound := by
  have empty : ∀ n, sound.waitOrder n = [] := by decide
  have idle : sound.recordRead = none := by decide
  refine ⟨fun n => ?_, fun f hf => ?_⟩
  · rw [empty n]; exact ⟨.nil, nofun⟩
  · rw [idle] at hf; cases hf

/-- A function reset owes slot 0 its restart, and the write cycle of the slot is still polled. -/
def resetting : State :=
  { (State.reset.setSlot 0 { readySlot with resetDue := some false }).setEngine 0
      { Engine.initial with phase := .polling, piece := some ⟨30, 2⟩, closing := true } with
    condition := .resetting, pending := [.poll 0 true] }

theorem resetting_requestsSound : resetting.RequestsSound := by
  intro _
  have staged : ∀ r, (resetting.ring r).staging = .empty := by decide
  have tags : ∀ r, (resetting.ring r).tags = [] := by decide
  have idle : resetting.recordRead = none := by decide
  refine ⟨fun r => ⟨⟨by rw [tags r]; exact .nil, fun q hq => ?_⟩, ?_, ?_, ?_, ?_, ?_, ?_, ?_, ?_⟩, by decide,
    by decide, by decide, .nil⟩
  · rw [staged r] at hq; cases hq
  · revert r; decide
  · revert r; decide
  · rw [staged r, idle]; exact ⟨(nomatch ·), fun ⟨_, h, _⟩ => (nomatch h)⟩
  · revert r; decide
  · revert r; decide
  · intro c hc
    have unbound : ∀ r, (resetting.ring r).bound = none := by decide
    rw [unbound r] at hc; cases hc
  · revert r; decide
  · revert r; decide

/-- LaneStaysSound, its three parts, in a RUNNING and in a RESETTING device. -/
theorem witness_LaneStaysSound :
    (sound.lane.Sound ∧ sound.SlotsSound ∧ sound.ResetsSound ∧ sound.LaneSound ∧ sound.RequestsSound
      ∧ isNext (step sound) = true)
    ∧ resetting.SlotsSound ∧ resetting.ResetsSound ∧ resetting.LaneSound ∧ resetting.RequestsSound
      ∧ (resetting.slot 0).resetDue = some false ∧ isNext (step resetting) = true :=
  ⟨⟨heldLane_sound, sound_slotsSound, by unfold State.ResetsSound; decide, ⟨heldLane_sound, by decide⟩,
      sound_requestsSound, by decide⟩,
    by unfold State.SlotsSound Slot.Sound; decide, by unfold State.ResetsSound; decide,
    ⟨resetLane_sound, by decide⟩, resetting_requestsSound, by decide⟩

/-- RequestsStayAccounted. -/
theorem witness_RequestsStayAccounted :
    sound.SlotsSound ∧ sound.RequestsSound ∧ sound.condition ≠ .halted ∧ isNext (step sound) = true :=
  ⟨sound_slotsSound, sound_requestsSound, by decide⟩

/-- LockTableStaysSound. -/
theorem witness_LockTableStaysSound : sound.LocksSound ∧ isNext (step sound) = true := by
  refine ⟨⟨by decide, by decide, ?_, ?_, ?_⟩, by decide⟩
  · unfold RequestRing.Owning; decide
  · unfold RequestRing.Owning; decide
  · intro r q hq; rw [sound_staging_empty r] at hq; cases hq

/-- OutstandingTagsStayDistinct. -/
theorem witness_OutstandingTagsStayDistinct :
    (∀ r, (sound.ring r).TagsSound) ∧ isNext (step sound) = true := ⟨sound_tagsSound, by decide⟩

/-- SuppliesFollowSlotStates. -/
theorem witness_SuppliesFollowSlotStates : sound.SlotsSound ∧ isNext (step sound) = true :=
  ⟨sound_slotsSound, by decide⟩

/-- ListsAndBuffersStaySound, its four parts, a completion ring full to its last place among them. -/
theorem witness_ListsAndBuffersStaySound :
    sound.WaitOrdersSound ∧ sound.ListsSound ∧ sound.BuffersSound ∧ sound.SlotsSound ∧ sound.RequestsSound
      ∧ (∀ c, (sound.comp c).CountsSound)
      ∧ (sound.comp 1).unconsumed + (sound.comp 1).reserved = (sound.comp 1).size - 1
      ∧ isNext (step sound) = true :=
  ⟨sound_waitOrdersSound, by unfold State.ListsSound; decide, by unfold State.BuffersSound; decide, sound_slotsSound,
    sound_requestsSound, by unfold CompletionRing.CountsSound; decide, by decide, by decide⟩

def settlingSlot (det : Bool) : Slot :=
  { Slot.initial false det false true true with state := .settling, settleTimer := some 50 }

/-- GenerationChangesOnlyAtAcceptance, by an accepted insertion and by a link reset. -/
theorem witness_GenerationChangesOnlyAtAcceptance :
    isNext (exec (.settleTimerExpiry 0) (withSlot (settlingSlot true))) = true
      ∧ ((after (exec (.settleTimerExpiry 0) (withSlot (settlingSlot true)))).slot 0).generation
        ≠ ((withSlot (settlingSlot true)).slot 0).generation
      ∧ isNext (exec .linkReset (withSlot readySlot)) = true
      ∧ ((after (exec .linkReset (withSlot readySlot))).slot 0).generation
        ≠ ((withSlot readySlot).slot 0).generation := by decide

/-- SettingsRoundTrip, both clauses, at the ends of the ranges. -/
theorem witness_SettingsRoundTrip :
    { SlotConfig.default with pollLimit := 4, settleSteps := 1, pgLimit := 20 }.inRange = true
      ∧ { SlotConfig.default with pollLimit := 255, settleSteps := 25, pgLimit := 500 }.inRange = true
      ∧ 0 < 2 ^ 32 ∧ (0 : Nat).testBit 3 = false
      ∧ 4294967287 < 2 ^ 32 ∧ (4294967287 : Nat).testBit 3 = false := by decide

/-- EnablingSendsPendingMessages, RegistersReadAsLaidOut, RegisterWriteActsByOffset, TakenActsByTable, and
FunctionResetClearsHostSide, in RESETTING and out of it. -/
theorem witness_registers_reached :
    running.inReset = false ∧ running.condition ≠ .resetting ∧ running.condition ≠ .off
      ∧ running.condition ≠ .halted ∧ { running with condition := .halted }.condition = .halted
      ∧ { running with condition := .resetting }.condition = .resetting ∧ 4 < (5 : Fin 8).val := by decide

/-- EnableStartsOrHalts, with an aligned and a misaligned start address. -/
theorem witness_EnableStartsOrHalts :
    State.reset.inReset = false ∧ State.reset.condition = .off
      ∧ (∀ n, (State.reset.engine n).exec = none) ∧ State.reset.intEnable = false
      ∧ (2 ^ 32 * (0 : Word).toNat + (0x40 : Word).toNat) % 64 = 0
      ∧ (2 ^ 32 * (0 : Word).toNat + (0x3F : Word).toNat) % 64 ≠ 0 := by decide

/-- StartRecordAcceptedOrHalts, its second clause. -/
theorem witness_StartRecordAcceptedOrHalts :
    let s := { State.reset with condition := .starting, startRead := some 0x40 }
    s.condition = .starting ∧ s.startRead = some 0x40 ∧ ∀ n, (s.engine n).exec = none := by decide

def kept (x : Slot) : Slot := { x with config := { x.config with retainPower := true } }

/-- FunctionResetTreatsSlotByState: out of power, with bus work, and by state and retain_power without. -/
theorem witness_FunctionResetTreatsSlotByState :
    running.inReset = false ∧ running.condition ≠ .resetting
      ∧ (running.slot 0).state.powered = false
      ∧ (readySlot.state.powered = true ∧ BusPhase.receiving ≠ .idle ∧ BusPhase.receiving ≠ .retryWait)
      ∧ (Engine.initial.phase = .idle ∧ readySlot.config.retainPower = false)
      ∧ ((kept readySlot).state = .ready ∧ (kept readySlot).config.retainPower = true)
      ∧ ((kept poweringSlot).state = .powering ∧ (kept poweringSlot).config.retainPower = true)
      ∧ ((kept { readySlot with state := .reading }).state = .reading
        ∧ (kept { readySlot with state := .reading }).config.retainPower = true)
      ∧ Engine.initial.hostTransfer = none := by decide

/-- FunctionResetTreatsSlotByState, the end of bus work left by a function reset: each event that ends it, and the
action that follows: a restart, a slot kept, a fresh header read, FAULT(BUS_STUCK) in READING, and in READY at a count
of 2. -/
theorem witness_FunctionResetTreatsSlotByState_ends :
    let left := { Engine.initial with closing := true }
    let polling := { left with phase := .polling, piece := some ⟨30, 2⟩ }
    let filling := { left with phase := .receiving, closeFill := some (2047, 1) }
    let due := fun (st : SlotState) (d : Bool) (stuck : Nat) =>
      { readySlot with state := st, resetDue := some d, stuck := stuck }
    let s := fun (e : Engine) (x : Slot) => (resetting.setSlot 0 x).setEngine 0 e
    resetting.lane.Sound ∧ resetting.condition = .resetting
      ∧ (polling.closing = true ∧ polling.pollCounter + 1 ≤ polling.pollLimit
        ∧ { polling with pollCounter := 40 }.pollLimit < 40 + 1)
      ∧ (∀ pos count, filling.closeFill = some (pos, count) → pos + min count [(7 : Byte), 8].length ≤ 2048)
      ∧ ((after (exec (.poll 0 true) (s polling (due .ready false 0)))).slot 0).state = .probing
      ∧ ((after (exec (.writeTransaction 0 .sent)
          (s { polling with phase := .sending } (due .ready true 1)))).slot 0).state = .ready
      ∧ ((after (exec (.readTransaction 0 (.data [7, 8])) (s filling (due .reading true 0)))).engine 0).frame
        = [0xB0, 0x00, 0xB1]
      ∧ ((after (exec (.recoveryEnd 0 true false)
          (s { left with phase := .recovery } (due .reading true 0)))).slot 0).state = .fault
      ∧ ((after (exec (.recoveryEnd 0 true false)
          (s { left with phase := .recovery } (due .ready false 1)))).slot 0).state = .fault :=
  ⟨resetLane_sound, by decide, by decide, by rintro _ _ ⟨⟩; decide, by decide, by decide, by decide, by decide,
    by decide⟩

theorem resetting_waitOrdersSound : resetting.WaitOrdersSound := by
  have empty : ∀ n, resetting.waitOrder n = [] := by decide
  have idle : resetting.recordRead = none := by decide
  refine ⟨fun n => ?_, fun f hf => ?_⟩
  · rw [empty n]; exact ⟨.nil, nofun⟩
  · rw [idle] at hf; cases hf

/-- FunctionResetTreatsSlotByState, its sound states: resetting has what the ending asks for, and what every step
keeps of it; and an OFF stands for slot 0 in a halt. -/
theorem witness_FunctionResetTreatsSlotByState_sound :
    (resetting.RequestsSound ∧ resetting.WaitOrdersSound ∧ (resetting.engine 0).closing = true)
      ∧ (resetting.EndingsSound ∧ isNext (step resetting) = true)
      ∧ (let s := { withEngine { Engine.initial with phase := .recovery, closing := true } with
          condition := .halted, deferred := [.powerOff 0 8 1] }
        (s.slot 0).state = .ready ∧ s.deferredOff 0 ≠ none ∧ (s.slot 0).resetDue = none
          ∧ isNext (exec (.recoveryEnd 0 false false) s) = true) :=
  ⟨⟨resetting_requestsSound, resetting_waitOrdersSound, by decide⟩,
    ⟨by unfold State.EndingsSound; decide, by decide⟩, by decide⟩

/-- ResetBusyClearsWhenWorkEnded, with no work left and with slot 7 still due. -/
theorem witness_ResetBusyClearsWhenWorkEnded :
    let s := { State.reset with condition := .resetting }
    let t := s.setSlot 7 { s.slot 7 with resetDue := some false }
    s.condition = .resetting
      ∧ ((∀ n, (s.engine n).closing = false ∧ (s.engine n).hostTransfer = none
        ∧ (s.slot n).resetDue = none) ∧ s.snapshotWrite = none)
      ∧ t.condition = .resetting
      ∧ ¬ ((∀ n, (t.engine n).closing = false ∧ (t.engine n).hostTransfer = none
        ∧ (t.slot n).resetDue = none) ∧ t.snapshotWrite = none) := by decide

/-- PartResetRestoresInitialState, its release with a module in bay 0. -/
theorem witness_PartResetRestoresInitialState :
    let s := { running.setSlot 0 (Slot.initial false true false true true) with inReset := true }
    s.inReset = true ∧ (s.slot 0).state = .empty ∧ (s.slot 0).det = true := by decide

def write0 : RecordWrite := { address := 0x2000, bytes := [], moot := false }

def result0 (status : Status) : Completion := completionOf 1 5 0 1 status 1 0

def report0 : Report := .slot 0 true false 0

def posting : State :=
  { running.setComp 1 { comp1 with writing := some (result0 .success, write0) } with
    notices := { NoticeRing.absent with
      active := true, base := 0x5000, size := 4, writing := some (report0, write0) } }

/-- FailedRecordWriteHalts, both commands. -/
theorem witness_FailedRecordWriteHalts :
    posting.condition = .running
      ∧ (∃ r w, (posting.comp 1).writing = some (r, w) ∧ w.moot = false)
      ∧ ∃ p w, posting.notices.writing = some (p, w) ∧ w.moot = false :=
  ⟨by decide, ⟨_, _, rfl, by decide⟩, ⟨_, _, rfl, by decide⟩⟩

/-- DetectAndProtectLinesFollowed. -/
theorem witness_DetectAndProtectLinesFollowed :
    running.inReset = false ∧ (running.slot 0).state = .empty
      ∧ ((withSlot (settlingSlot true)).slot 0).state = .settling := by decide

/-- SettleExpiryAcceptsOrEmpties, DETn asserted and not. -/
theorem witness_SettleExpiryAcceptsOrEmpties :
    ((withSlot (settlingSlot true)).slot 0).state = .settling
      ∧ ((withSlot (settlingSlot true)).slot 0).settleTimer.isSome = true
      ∧ ((withSlot (settlingSlot true)).slot 0).det = true
      ∧ ((withSlot (settlingSlot false)).slot 0).state = .settling
      ∧ ((withSlot (settlingSlot false)).slot 0).settleTimer.isSome = true
      ∧ ((withSlot (settlingSlot false)).slot 0).det = false := by decide

def probe (again second high : Bool) : Probe :=
  { repeatAttempt := again, secondPass := second, highPhase := high, lowA := false, lowB := true
    firstPair := some ⟨.ground, .open⟩ }

/-- ProbePhasesAdvance: a low phase, a first pass's high phase, and a first attempt that does not agree. -/
theorem witness_ProbePhasesAdvance :
    ((withSlot (probingSlot (probe false false false))).slot 0).state = .probing
      ∧ ((withSlot (probingSlot (probe false false false))).slot 0).probe = some (probe false false false)
      ∧ (probe false false false).highPhase = false
      ∧ ((probe false false true).highPhase = true ∧ (probe false false true).secondPass = false)
      ∧ ((probe false true true).highPhase = true ∧ (probe false true true).secondPass = true
        ∧ (probe false true true).repeatAttempt = false
        ∧ ¬ (some (SensePair.mk .linked .open) ≠ none
          ∧ (probe false true true).firstPair = some ⟨.linked, .open⟩)) := by decide

/-- ProbeEndByTable: an attempt that agrees, and a repeated attempt that does not. -/
theorem witness_ProbeEndByTable :
    ((withSlot (probingSlot (probe true true true))).slot 0).state = .probing
      ∧ ((withSlot (probingSlot (probe true true true))).slot 0).probe = some (probe true true true)
      ∧ (probe true true true).highPhase = true ∧ (probe true true true).secondPass = true
      ∧ (pairOf (probe true true true) false true ≠ none
        ∧ (probe true true true).firstPair = pairOf (probe true true true) false true)
      ∧ (¬ (pairOf (probe true true true) true true ≠ none
          ∧ (probe true true true).firstPair = pairOf (probe true true true) true true)
        ∧ (probe true true true).repeatAttempt = true) := by decide

/-- PowerGoodLeadsToReading, both clauses. -/
theorem witness_PowerGoodLeadsToReading :
    let y := { poweringSlot with pg := true, pgSeen := true, pgTimer := none, wakeTimer := some 10 }
    ((withSlot poweringSlot).slot 0).state = .powering ∧ ((withSlot poweringSlot).slot 0).pgSeen = false
      ∧ ((withSlot y).slot 0).state = .powering ∧ ((withSlot y).slot 0).wakeTimer.isSome = true
      ∧ ((withSlot y).slot 0).pg = true := by decide

/-- PgLimitFaultsSlot. -/
theorem witness_PgLimitFaultsSlot :
    (withSlot poweringSlot).lane.Sound ∧ ((withSlot poweringSlot).slot 0).state = .powering
      ∧ ((withSlot poweringSlot).slot 0).pgTimer.isSome = true
      ∧ ((withSlot poweringSlot).slot 0).pgSeen = false
      ∧ (withSlot poweringSlot).lane.holder ≠ some 0
      ∧ ∀ w ∈ (withSlot poweringSlot).lane.waiters, w.slot ≠ 0 :=
  ⟨resetLane_sound, by decide⟩

/-- Slot 0 READY in the re-parse after a WRITE, its descriptor about to change. -/
def reparsing : State :=
  withEngine { Engine.initial with
    phase := .receiving, descRead := some .header, exec := some (execution .write (.reparse .success)) }

/-- Slot 0 READY in a REFRESH. -/
def refreshing : State :=
  withEngine { Engine.initial with
    phase := .receiving, descRead := some .header, exec := some (execution .refresh .refreshing) }

/-- PowerLossFaultsSlot, of a slot in POWERING, of the READY holder and the READY waiter of the lane, and of a
slot in its re-parse and in a REFRESH. -/
theorem witness_PowerLossFaultsSlot :
    (withSlot { poweringSlot with pgSeen := true }).lane.Sound
      ∧ ((withSlot { poweringSlot with pgSeen := true }).slot 0).state = .powering
      ∧ ((withSlot { poweringSlot with pgSeen := true }).slot 0).pgSeen = true
      ∧ (onLane heldLane).lane.Sound ∧ ((onLane heldLane).slot 0).state = .ready
      ∧ ((onLane heldLane).slot 1).state = .ready
      ∧ reparsing.lane.Sound ∧ (reparsing.slot 0).state = .ready
      ∧ changeMask (reparsing.slot 0).desc (Desc.raw .absent) ≠ 0
      ∧ refreshing.lane.Sound ∧ (refreshing.slot 0).state = .ready
      ∧ (refreshing.engine 0).exec = some (execution .refresh .refreshing)
      ∧ changeMask (refreshing.slot 0).desc (Desc.raw .absent) ≠ 0 :=
  ⟨resetLane_sound, by decide, by decide, heldLane_sound, by decide, by decide, resetLane_sound, by decide,
    by decide, resetLane_sound, by decide⟩

/-- RemovalEmptiesSlot, of the holder of the lane, and of a slot in its re-parse and in a REFRESH. -/
theorem witness_RemovalEmptiesSlot :
    (onLane heldLane).lane.Sound ∧ (onLane heldLane).inReset = false
      ∧ ((onLane heldLane).slot 0).state ≠ .empty ∧ ((onLane heldLane).slot 0).state ≠ .settling
      ∧ (reparsing.lane.Sound ∧ reparsing.inReset = false ∧ (reparsing.slot 0).state ≠ .empty
        ∧ (reparsing.slot 0).state ≠ .settling
        ∧ (reparsing.engine 0).exec = some (execution .write (.reparse .success))
        ∧ (execution .write (.reparse .success)).stage = .reparse .success
        ∧ changeMask (reparsing.slot 0).desc (Desc.raw .absent) ≠ 0)
      ∧ (refreshing.lane.Sound ∧ refreshing.inReset = false ∧ (refreshing.slot 0).state ≠ .empty
        ∧ (refreshing.slot 0).state ≠ .settling
        ∧ (refreshing.engine 0).exec = some (execution .refresh .refreshing)
        ∧ changeMask (refreshing.slot 0).desc (Desc.raw .absent) ≠ 0) :=
  ⟨heldLane_sound, by decide, by decide, by decide, ⟨resetLane_sound, by decide⟩, resetLane_sound, by decide⟩

/-- ReadTransactionFillsBuffer: the last byte of a READ's range, one that crosses into the next block, the first
byte alone, and the same of a COMPARE, whose bytes are equal to the last or differ at the first. -/
theorem witness_ReadTransactionFillsBuffer :
    let x := { execution .read .busRead with next := 69 }
    let y := { execution .read .busRead with entry := { entry .read with address := 250 }, next := 250 }
    let z := { execution .compare .busRead with next := 69 }
    let e := { Engine.initial with phase := .receiving, exec := some x }
    (x.stage = .busRead ∧ x.entry.kind = .read ∧ x.entry.address ≤ x.next ∧ x.abortMark = false
      ∧ x.next < x.entry.address + x.entry.length ∧ x.entry.address + x.entry.length ≤ 2048
      ∧ [(7 : Byte)].length = min (x.entry.address + x.entry.length - x.next) (256 - x.next % 256))
    ∧ (y.entry.address ≤ y.next ∧ y.next < y.entry.address + y.entry.length
      ∧ y.entry.address + y.entry.length ≤ 2048
      ∧ [(1 : Byte), 2, 3, 4, 5, 6].length
        = min (y.entry.address + y.entry.length - y.next) (256 - y.next % 256)
      ∧ y.next + 6 < y.entry.address + y.entry.length)
    ∧ ([(1 : Byte)] ≠ []
      ∧ [(1 : Byte)].length < min (y.entry.address + y.entry.length - y.next) (256 - y.next % 256))
    ∧ (((withEngine e).engine 0).phase = .receiving ∧ ((withEngine e).engine 0).exec = some x
      ∧ e.piece = none ∧ e.closing = false ∧ e.descRead = none ∧ Buffer.wf e.buffer = true
      ∧ (withEngine e).deferredOff 0 = none)
    ∧ (z.entry.kind = .compare ∧ z.stage = .busRead
      ∧ ([(0 : Byte)].length = min (z.entry.address + z.entry.length - z.next) (256 - z.next % 256)
        ∧ ∀ i : Nat, i < 1 → [(0 : Byte)].getD i 0 = Buffer.read e.buffer (39 + i))
      ∧ (let w := execution .compare .busRead
        [(0 : Byte)].length < min (w.entry.address + w.entry.length - w.next) (256 - w.next % 256)
          ∧ ∀ i : Nat, i < 1 → [(0 : Byte)].getD i 0 = Buffer.read e.buffer (0 + i))
      ∧ z.entry.address + z.entry.length ≤ z.next + 1
      ∧ (0 < [(9 : Byte)].length ∧ [(9 : Byte)].getD 0 0 ≠ Buffer.read e.buffer (39 + 0))) := by decide

/-- PieceSentThenPolled: a piece sent, its first and its last data byte refused, and a poll at the limit. -/
theorem witness_PieceSentThenPolled :
    let x := execution .write .pieces
    ((withEngine (writing .sending 0 x)).engine 0).piece = some ⟨30, 2⟩
      ∧ ((withEngine (writing .sending 0 x)).engine 0).phase = .sending
      ∧ ((withEngine (writing .sending 0 x)).engine 0).closing = false
      ∧ ((withEngine (writing .sending 0 x)).engine 0).exec = some x ∧ x.abortMark = false
      ∧ 0 < (Piece.mk 30 2).length ∧ 1 < (Piece.mk 30 2).length
      ∧ (withEngine (writing .sending 0 x)).deferredOff 0 = none
      ∧ (writing .pollWait 0 x).phase = .pollWait
      ∧ (writing .polling 39 x).phase = .polling
      ∧ (writing .polling 39 x).pollCounter + 1 ≤ (writing .polling 39 x).pollLimit := by decide

/-- Slot 0's engine between two pieces of a WRITE. -/
def between (x : Execution) : Engine := { writing .idle 0 { x with next := 32, bytesDone := 2 } with piece := none }

/-- PollEndsPiece: a piece to follow, the last piece, a marked piece, the limit passed, and the engine between two
pieces, at a tick and at a command. -/
theorem witness_PollEndsPiece :
    let x := execution .write .pieces
    let last := { x with entry := { x.entry with length := 2 } }
    (writing .polling 40 x).phase = .polling ∧ (writing .polling 40 x).piece = some ⟨30, 2⟩
      ∧ (writing .polling 40 x).closing = false ∧ (writing .polling 40 x).exec = some x
      ∧ x.stage = .pieces ∧ (withEngine (writing .polling 40 x)).deferredOff 0 = none
      ∧ (x.abortMark = false ∧ 30 + 2 < x.entry.address + x.entry.length)
      ∧ last.entry.address + last.entry.length ≤ 30 + 2
      ∧ { x with abortMark := true }.abortMark = true
      ∧ (writing .polling 40 x).pollLimit < (writing .polling 40 x).pollCounter + 1
      ∧ (let y := { x with next := 32, bytesDone := 2 }
        let s := withEngine (between x)
        (s.engine 0).exec = some y ∧ y.stage = .pieces ∧ (s.engine 0).phase = .idle
          ∧ (s.engine 0).piece = none ∧ y.next < y.entry.address + y.entry.length ∧ y.abortMark = false
          ∧ s.pending = [] ∧ ∀ m : Fin 8, m ≠ 0 → (s.engine m).phase = .idle ∧ (s.engine m).exec = none) := by
  decide

/-- RefusedAccessRetriedThenGivenUp: attempts 2 and 3 of a descriptor read, of a READ and of a piece, and the retry
of each. -/
theorem witness_RefusedAccessRetriedThenGivenUp :
    let x := execution .read .busRead
    let y := execution .write .pieces
    let d := { Engine.initial with phase := .addressing, attempt := 2, descRead := some .header }
    let r := { Engine.initial with phase := .addressing, attempt := 3, exec := some x }
    let w := { writing .sending 0 y with attempt := 3 }
    (d.phase = .addressing ∧ d.piece = none ∧ d.closing = false ∧ d.attempt < 3
      ∧ (∀ x, d.exec = some x → x.abortMark = false) ∧ d.descRead.isSome = true)
    ∧ (3 ≤ { d with attempt := 3 }.attempt ∧ { d with attempt := 3 }.exec = none)
    ∧ (3 ≤ r.attempt ∧ r.descRead = none ∧ r.exec = some x ∧ x.stage = .busRead ∧ x.abortMark = false
      ∧ (withEngine r).deferredOff 0 = none)
    ∧ (w.phase = .sending ∧ w.piece = some ⟨30, 2⟩ ∧ w.closing = false ∧ w.descRead = none ∧ w.exec = some y
      ∧ y.abortMark = false ∧ y.stage = .pieces ∧ { w with attempt := 2 }.attempt < 3 ∧ 3 ≤ w.attempt
      ∧ (withEngine w).deferredOff 0 = none)
    ∧ ((writing .retryWait 0 y).phase = .retryWait ∧ (writing .retryWait 0 y).descRead = none
      ∧ { r with phase := .retryWait }.phase = .retryWait ∧ { d with phase := .retryWait }.phase = .retryWait
      ∧ ∃ h, { d with descRead := some (.extension extension0) }.descRead = some (.extension h)) := by
  have none_marked : ∀ x : Execution, none = some x → x.abortMark = false := fun x h => nomatch h
  exact ⟨⟨by decide, by decide, by decide, by decide, none_marked, by decide⟩, by decide, by decide, by decide,
    by decide, by decide, by decide, by decide, ⟨_, rfl⟩⟩

/-- StuckEpisodeEndsWork: an open transaction, the recovery of a first read, and that of a READ and of a WRITE with
and without a current piece, each at a count of 0 and of 1. -/
theorem witness_StuckEpisodeEndsWork :
    let d := { Engine.initial with phase := .recovery, descRead := some .header }
    let r := { Engine.initial with phase := .recovery, exec := some (execution .read .busRead) }
    let w := writing .recovery 0 (execution .write .pieces)
    { r with phase := .addressing }.phase = .addressing
      ∧ ((withEngine d).lane.Sound ∧ d.phase = .recovery ∧ d.closing = false ∧ d.exec = none
        ∧ d.descRead.isSome = true)
      ∧ (∀ p ∈ [(r, execution .read .busRead), (w, execution .write .pieces),
          ({ w with piece := none }, execution .write .pieces)],
        (withEngine p.1).lane.Sound ∧ p.1.phase = .recovery ∧ p.1.closing = false ∧ p.1.exec = some p.2
        ∧ (p.2.stage = .busRead ∨ p.2.stage = .pieces) ∧ ((withEngine p.1).slot 0).state = .ready
        ∧ (withEngine p.1).deferredOff 0 = none ∧ ((withEngine p.1).slot 0).stuck = 0)
      ∧ (0 < { readySlot with stuck := 1 }.stuck ∧ w.piece = some ⟨30, 2⟩) :=
  ⟨by decide, ⟨resetLane_sound, by decide⟩, fun p hp => ⟨resetLane_sound, by revert p; decide⟩, by decide⟩

/-- AbortMarkEndsRequest: a marked READ and COMPARE in the transaction, with none and all of its bytes received or
the first differing, or in RETRY_WAIT; a marked WRITE likewise, between its pieces, and with its first and last data
byte refused. -/
theorem witness_AbortMarkEndsRequest :
    let x := { execution .read .busRead with abortMark := true }
    let c := { execution .compare .busRead with abortMark := true }
    let y := { execution .write .pieces with abortMark := true }
    let r := { Engine.initial with phase := .receiving, exec := some x }
    let count := min (x.entry.address + x.entry.length - x.next) (256 - x.next % 256)
    (r.exec = some x ∧ r.descRead = none ∧ x.abortMark = true ∧ r.closing = false
      ∧ (withEngine r).deferredOff 0 = none ∧ x.stage = .busRead ∧ r.phase = .receiving ∧ r.piece = none
      ∧ { r with phase := .retryWait }.phase = .retryWait)
    ∧ (x.entry.kind = .read ∧ x.next - x.entry.address + count ≤ 2048 ∧ ([] : List Byte).length ≤ count
      ∧ (List.replicate 40 (7 : Byte)).length ≤ count ∧ Buffer.wf r.buffer = true)
    ∧ (c.entry.kind = .compare ∧ c.stage = .busRead ∧ [(9 : Byte)].length ≤ count
      ∧ [(9 : Byte)].getD 0 0 ≠ Buffer.read r.buffer 0 ∧ [(0 : Byte)].getD 0 0 = Buffer.read r.buffer 0)
    ∧ ((writing .sending 0 y).exec = some y ∧ (writing .sending 0 y).descRead = none ∧ y.abortMark = true
      ∧ y.stage = .pieces ∧ (writing .sending 0 y).phase = .sending
      ∧ (writing .sending 0 y).piece = some ⟨30, 2⟩ ∧ 0 < (Piece.mk 30 2).length ∧ 1 < (Piece.mk 30 2).length
      ∧ (writing .retryWait 0 y).phase = .retryWait)
    ∧ ((between y).phase = .idle ∧ (between y).piece = none ∧ 32 < y.entry.address + y.entry.length) := by
  decide

/-- HeaderStageOfFirstRead: the header of section 4.7, one that declares no extension, and one with a wrong
magic. -/
theorem witness_HeaderStageOfFirstRead :
    let e := { Engine.initial with phase := .receiving, descRead := some .header }
    (header 0xC3 0x0D 0x40 0x17).length = 32 ∧ (header 0xC3 0 0x40 0x24).length = 32
      ∧ (header 0xFF 0x0D 0x40 0x17).length = 32 ∧ e.phase = .receiving ∧ e.piece = none
      ∧ e.closing = false ∧ e.descRead = some .header ∧ e.exec = none := by decide

/-- ExtensionWalkDecidesVerdict: after the two entries of section 4.7 its unknown entry, a good END, and what makes
each other verdict of the walk. -/
theorem witness_ExtensionWalkDecidesVerdict :
    let e := { Engine.initial with phase := .receiving, descRead := some (.extension extension0) }
    let entries : List (Byte × List Byte) := [(1, [0x23, 0]), (2, [2])]
    let fits := fun (type : Byte) (payload : List Byte) =>
      (type = 1 ∧ payload.length = 2)
        ∨ (type = 2 ∧ payload.length = 1 ∧ 1 ≤ (payload.getD 0 0).toNat ∧ (payload.getD 0 0).toNat ≤ 4)
        ∨ (type = 3 ∧ 1 ≤ payload.length ∧ payload.length ≤ 32)
        ∨ (type ≠ 1 ∧ type ≠ 2 ∧ type ≠ 3 ∧ payload.length ≤ 64)
    let known := fun type : Byte => type = 1 ∨ type = 2 ∨ type = 3
    let walked := fun l : List (Byte × List Byte) => l.flatMap fun p => p.1 :: BitVec.ofNat 8 p.2.length :: p.2
    (e.phase = .receiving ∧ e.piece = none ∧ e.closing = false ∧ e.exec = none)
    ∧ (∀ p ∈ entries ++ [(0x40, [0x7E])], p.1 ≠ 0 ∧ fits p.1 p.2)
    ∧ ((entries ++ [(0x40, [0x7E])]).Pairwise fun (p q : Byte × List Byte) => known p.1 → p.1 ≠ q.1)
    ∧ (walked (entries ++ [(0x40, [0x7E])]) ++ [0, 1, 0x15]).length = extension0.extLength
    ∧ ((walked entries ++ []).length = { extension0 with extLength := 7 }.extLength
      ∧ (walked entries ++ [3]).length = { extension0 with extLength := 8 }.extLength)
    ∧ ∀ p ∈ [((3 : Byte), (65 : Byte), ([] : List Byte)), (1, 2, [0]), (0, 2, [1, 1]), (0, 1, [9]), (1, 2, [5, 5]),
        (2, 1, [5])],
      let rest := p.1 :: p.2.1 :: p.2.2
      (walked entries ++ rest).length = { extension0 with extLength := 7 + rest.length }.extLength
        ∧ (p.2.1.toNat ≤ 64 → p.2.1.toNat ≤ p.2.2.length → p.1 ≠ 0 →
          (known p.1 ∧ (entries.find? fun q => q.1 = p.1).isSome = true)
            ∨ ¬ fits p.1 (p.2.2.take p.2.1.toNat)) := by
  dsimp only
  refine ⟨by decide, by decide, by decide, by decide, by decide, by decide⟩

/-- ReparseAndRefreshEnd: a re-parse and a REFRESH at the header and at the extension area, refused the third time,
and after a stuck episode with the stuck count at 0 and at 1. -/
theorem witness_ReparseAndRefreshEnd :
    let x := execution .write (.reparse .success)
    let y := execution .refresh .refreshing
    let e := { Engine.initial with
      phase := .receiving, attempt := 3, descRead := some (.extension extension0), exec := some y }
    let recovering := (withSlot { readySlot with stuck := 1 }).setEngine 0 { e with phase := .recovery }
    (reparsing.lane.Sound ∧ (reparsing.engine 0).exec = some x ∧ x.stage = .reparse .success
      ∧ (reparsing.engine 0).descRead = some .header ∧ (reparsing.engine 0).piece = none
      ∧ (reparsing.engine 0).closing = false ∧ reparsing.deferredOff 0 = none
      ∧ (reparsing.engine 0).phase = .receiving ∧ (header 0xC3 0x0D 0x40 0x17).length = 32)
    ∧ (e.exec = some y ∧ y.stage = .refreshing ∧ e.descRead = some (.extension extension0)
      ∧ (area 2 0x40 0x15).length = extension0.extLength ∧ extension0.extLength ≤ 224 ∧ 3 ≤ e.attempt)
    ∧ ((recovering.engine 0).phase = .recovery ∧ (recovering.slot 0).state = .ready
      ∧ 0 < (recovering.slot 0).stuck ∧ ((withSlot readySlot).slot 0).stuck = 0) :=
  ⟨⟨resetLane_sound, by decide⟩, by decide, by decide⟩

/-- PostActsByTable: halted, not ACTIVE, the last index of the ring and the first outside it. -/
theorem witness_PostActsByTable :
    running.inReset = false ∧ { running with condition := .halted }.condition = .halted
      ∧ (running.ring 2).state ≠ .active
      ∧ (running.condition ≠ .halted ∧ (running.ring 1).state = .active
        ∧ (15 : Half).toNat < (running.ring 1).size)
      ∧ (running.ring 1).size ≤ (16 : Half).toNat := by decide

/-- FetchTakesFirstEligible: ring 1 found as the last of the search from ring 2 on, and a free path with no
eligible ring. -/
theorem witness_FetchTakesFirstEligible :
    let s := { running.setRing 0 { ring1 with tail := 0 } with roundRobin := 2 }
    let eligible := fun (s : State) (r : RingId) => s.condition ≠ .halted ∧ (s.ring r).state = .active
      ∧ (s.ring r).head ≠ (s.ring r).tail ∧ (s.ring r).staging = .empty
      ∧ ∃ c, (s.ring r).bound = some c ∧ (s.comp c).unconsumed + (s.comp c).reserved < (s.comp c).size - 1
    s.recordRead = none ∧ eligible s (s.roundRobin + 7)
      ∧ (∀ j : Fin 8, j < 7 → ¬ eligible s (s.roundRobin + j))
      ∧ (s.ring (s.roundRobin + 7)).bound = some 1 ∧ ∀ r, ¬ eligible State.reset r := by decide

/-- RecordReadFailsByFirstCase: ring FAULTED, DRAINING with nothing left, ACTIVE in a halt, ACTIVE with ring 1,
and ACTIVE with ring 0. -/
theorem witness_RecordReadFailsByFirstCase :
    let f : RecordRead := { ring := 1, address := 0x1000, moot := false }
    let draining := { fetching.setRing 1 { ring1 with state := .draining, tags := [] } with
      deferred := [.deleteRing 1 9 1 0] }
    (fetching.recordRead = some f ∧ f.moot = false ∧ (fetching.ring f.ring).bound = some 1)
    ∧ ({ ring1 with state := .faulted }.state ≠ .active ∧ { ring1 with state := .faulted }.state ≠ .draining)
    ∧ ((draining.ring 1).state = .draining ∧ (draining.ring 1).tags = [] ∧ draining.condition ≠ .halted
      ∧ draining.deferredDelete 1 = some (9, 1, 0) ∧ (1 : RingId) ≠ 0)
    ∧ ((fetching.ring 1).state = .active ∧ { fetching with condition := .halted }.condition = .halted)
    ∧ fetching.condition = .running ∧ (fetching.ring 0).state = .active := by decide

/-- ValidRecordDispatched: a READ of slot 0, EMPTY or READY, and a control request of ring 0. -/
theorem witness_ValidRecordDispatched :
    let q : Request := { kind := .read, tag := 7, slot := 0, generation := 0, address := 2047, length := 1
                         aux := 0, buffer := 0x3000 }
    let f0 : RecordRead := { ring := 0, address := 0x1000, moot := false }
    let s0 := { running with recordRead := some f0 }
    (fetching.recordRead = some { ring := 1, address := 0x1000, moot := false }
      ∧ (fetching.ring 1).state = .active ∧ fetching.condition ≠ .halted
      ∧ validate 1 (fetching.ring 1).tags (record 1 7 0 0 2047 1 0 0x3000).toList = .valid q
      ∧ q.kind = .read ∧ (fetching.slot 0).state = .empty)
    ∧ readySlot.state ≠ .empty ∧ readySlot.state ≠ .held ∧ readySlot.state ≠ .fault
    ∧ (s0.recordRead = some f0 ∧ (s0.ring 0).state = .active
      ∧ validate 0 (s0.ring 0).tags (record 0x11 7 0 0 0 0 1 0).toList = .valid
        { kind := .deleteRequestRing, tag := 7, slot := 0, generation := 0, address := 0, length := 0
          aux := 1, buffer := 0 }) := by decide

/-- MemoryRecordValidated: one wrong field, the range's end at 2049 and at 2048 with the tag in use and not, an
unknown kind, and a record refused. -/
theorem witness_MemoryRecordValidated :
    validate 1 [5] (record 1 5 0 0 2040 9 0 0).toList = .refuse .outOfRange 2049
      ∧ validate 1 [5] (record 1 5 0 0 2040 8 0 0).toList = .refuse .duplicateTag 0
      ∧ validate 1 [5] (record 1 5 8 0 2040 9 0 0).toList = .refuse .invalidField 4
      ∧ validate 1 [5] (record 1 6 7 0 2040 8 0 0).toList = .valid
        { kind := .read, tag := 6, slot := 7, generation := 0, address := 2040, length := 8, aux := 0
          buffer := 0 }
      ∧ validate 1 [5] (record 9 6 7 0 2040 8 0 0).toList = .refuse .invalidKind 9
      ∧ fetching.recordRead = some { ring := 1, address := 0x1000, moot := false }
      ∧ (fetching.ring 1).state = .active ∧ fetching.condition ≠ .halted
      ∧ (fetching.ring 1).tags = [5] := by decide

/-- Validation gives a request with this tag. -/
def isValid (v : Verdict) (tag : Half) : Bool :=
  match v with
  | .valid q => q.tag == tag
  | .refuse _ _ => false

/-- MemoryRecordValidated, the other kinds: each is valid on the ring of its family, and INVALID_KIND on the other. -/
theorem witness_MemoryRecordValidated_kinds :
    (∀ p ∈ [(4, record 4 6 7 9 0 0 0 0), (5, record 5 6 7 9 2047 1 0 0), (6, record 6 6 7 9 0 2048 0 0),
        (7, record 7 6 7 9 0 0 65535 0), (8, record 8 6 7 0 0 0 0 0)],
      isValid (validate 1 [5] p.2.toList) 6 = true
        ∧ validate 0 [5] p.2.toList = .refuse .invalidKind p.1)
    ∧ ∀ p ∈ [(0x10, record 0x10 6 0 0 0 0 0x04000307 0x40), (0x11, record 0x11 6 0 0 0 0 7 0),
        (0x12, record 0x12 6 0 0 0 0 0x00020301 0x40), (0x13, record 0x13 6 0 0 0 0 3 0),
        (0x14, record 0x14 6 0 0 0 0 0 0), (0x14, record 0x14 6 0 0 0 0 0x01000000 0x40),
        (0x15, record 0x15 6 7 0 0 0 0x0C8528F1 0), (0x16, record 0x16 6 7 0 0 0 1 0),
        (0x17, record 0x17 6 7 0 0 0 0 0x1001), (0x18, record 0x18 6 0 0 0 0 0xFFFF0007 0),
        (0x19, record 0x19 6 0 0 0 0 0x3201 0)],
      isValid (validate 0 [5] p.2.toList) 6 = true
        ∧ validate 1 [5] p.2.toList = .refuse .invalidKind p.1 := by decide

/-- MemoryRecordValidated, a wrong field of each control kind and of CLAIM_LANE, just outside its range. -/
theorem witness_MemoryRecordValidated_fields :
    ∀ p ∈ [(record 7 6 7 0 0 0 60001 0, 1, 12), (record 8 6 7 1 0 0 0 0, 1, 6),
        (record 0x10 6 0 0 0 0 0x04010307 0x40, 0, 14), (record 0x10 6 0 0 0 0 0x04000407 0x40, 0, 13),
        (record 0x11 6 0 0 0 0 8 0, 0, 12), (record 0x12 6 0 0 0 0 0x00020301 0x20, 0, 16),
        (record 0x13 6 0 0 0 0 0x01000003 0, 0, 15), (record 0x14 6 0 0 0 0 0x01010000 0x40, 0, 14),
        (record 0x14 6 0 0 0 0 0 0x40, 0, 16), (record 0x15 6 7 0 0 0 0x0C8503F1 0, 0, 13),
        (record 0x15 6 7 0 0 0 0x0C9A28F1 0, 0, 14), (record 0x15 6 7 0 0 0 0x0C8528F9 0, 0, 12),
        (record 0x16 6 8 0 0 0 1 0, 0, 4), (record 0x17 6 7 0 0 0 0x100 0, 0, 12),
        (record 0x18 6 0 0 1 0 7 0, 0, 8), (record 0x19 6 0 0 0 0 0x3301 0, 0, 13),
        (record 0x19 6 0 0 0 1 0 0, 0, 10)],
      validate p.2.1 [5] p.1.toList = .refuse .invalidField p.2.2 := by decide

/-- CompletionCountedWhenWritten, in a halt and out of one, with an ABORT deferred for the request. -/
theorem witness_CompletionCountedWhenWritten :
    (posting.comp 1).writing = some (result0 .success, write0) ∧ write0.moot = false
      ∧ { posting with condition := .halted }.condition = .halted ∧ posting.condition ≠ .halted
      ∧ (result0 .success).refused = false
      ∧ { posting with deferred := [.abort 1 5 9 1] }.deferredAbort 1 5 = some (9, 1)
      ∧ ((posting.comp 0).writing = none ∧ (posting.comp 0).queue = [])
      ∧ ∀ q, (posting.ring q).bound = some 0 → (posting.comp 0).active = true := by decide

/-- CompletionCountedWhenWritten, the end of a moot write with a result behind it, in a halt and out of one. -/
theorem witness_CompletionCountedWhenWritten_moot :
    let moot := { write0 with moot := true }
    let s := running.setComp 1 { comp1 with
      writing := some (result0 .stale, moot), queue := [result0 .success] }
    (s.comp 1).writing = some (result0 .stale, moot) ∧ moot.moot = true
      ∧ (s.comp 1).queue = result0 .success :: [] ∧ s.condition ≠ .halted
      ∧ { s with condition := .halted }.condition = .halted := by decide

/-- The only outstanding request has ended, and its record is being written. -/
def finishing : State :=
  { ((running.setRing 0 { ring1 with bound := some 0, tags := [] }).setComp 0 { comp1 with reserved := 0 }).setComp
      1 { comp1 with writing := some (result0 .success,
        { address := 0x2000, bytes := (result0 .success).bytes true, moot := false }) } with
    pending := [.completionWriteDone 1] }

theorem finishing_requestsSound : finishing.RequestsSound := by
  intro _
  have staged : ∀ r, (finishing.ring r).staging = .empty := by decide
  have idle : finishing.recordRead = none := by decide
  have bound : ∀ r, (finishing.ring r).bound.all (fun c => (finishing.comp c).active) = true := by decide
  have tags : ∀ r, (finishing.ring r).tags.Nodup := by decide
  refine ⟨fun r => ⟨⟨tags r, fun q hq => by rw [staged r] at hq; cases hq⟩, ?_, ?_, ?_, ?_, ?_, ?_, ?_, ?_⟩,
    by decide, by decide, by decide, .nil⟩
  · revert r; decide
  · revert r; decide
  · rw [staged r, idle]; exact ⟨(nomatch ·), fun ⟨_, h, _⟩ => (nomatch h)⟩
  · revert r; decide
  · revert r; decide
  · intro c hc; have := bound r; rw [hc] at this; exact this
  · revert r; decide
  · revert r; decide

/-- CompletionCountedWhenWritten, the invariant with a record being written. -/
theorem witness_CompletionCountedWhenWritten_posting :
    finishing.RequestsSound ∧ finishing.PosterSound ∧ finishing.condition ≠ .halted
      ∧ isNext (step finishing) = true := by
  refine ⟨finishing_requestsSound, fun _ c => ?_, by decide, by decide⟩
  have idle : ∀ d : CompRingId, d ≠ 1 → (finishing.comp d).writing = none ∧ (finishing.comp d).queue = [] := by
    decide
  by_cases h : c = 1
  · subst h; exact fun _ => ⟨rfl, by decide, rfl⟩
  · unfold CompletionRing.Posting; rw [(idle c h).1]; exact (idle c h).2

/-- NoticeCountedWhenWritten: room for one more record, slot 7 dirty, ring 7 dirty, and nothing dirty. -/
theorem witness_NoticeCountedWhenWritten :
    let x := posting.notices
    let dirty := posting.setDirtySlot 7 { set := true, stateKind := true, changedKind := false, mask := 0 }
    let faulted := posting.setDirtyRing 7 { fault := some (.badTail, 3) }
    (x.writing = some (report0, write0) ∧ write0.moot = false ∧ posting.condition ≠ .halted)
      ∧ (x.active = true ∧ x.unconsumed + 1 < x.size - 1)
      ∧ ((∀ n, (posting.dirtySlot n).set = false) ∧ ∀ r, (posting.dirtyRing r).fault = none)
      ∧ ((dirty.dirtySlot 7).set = true ∧ ∀ m : Fin 8, m < 7 → (dirty.dirtySlot m).set = false)
      ∧ ((∀ n, (faulted.dirtySlot n).set = false)
        ∧ (faulted.dirtyRing 7).fault = some (.badTail, 3)
        ∧ ∀ q : Fin 8, q < 7 → (faulted.dirtyRing q).fault = none) := by decide

/-- NoticeCountedWhenWritten, a notice of each kind written at once: a slot's entry to READING, the verdict of a
REFRESH refused three times, and the fault of ring 1. -/
theorem witness_NoticeCountedWhenWritten_at_once :
    let n := { NoticeRing.absent with active := true, base := 0x5000, size := 4 }
    let waking := withSlot { poweringSlot with pg := true, pgSeen := true, pgTimer := none, wakeTimer := some 10 }
    let refused := withEngine { Engine.initial with
      phase := .addressing, attempt := 3, descRead := some .header
      exec := some (execution .refresh .refreshing) }
    (n.active = true ∧ n.unconsumed < n.size - 1 ∧ n.writing = none)
      ∧ ∀ p ∈ [(waking, Instr.wakeTimerExpiry 0, Report.slot 0 true false 0),
          (refused, .readTransaction 0 .unanswered, .slot 0 false true (changeMask readySlot.desc (Desc.raw .absent))),
          (running, .post 1 16, .ring 1 .badTail 0)],
        let s := { p.1 with notices := n }
        let t := after (exec p.2.1 s)
        ((∀ n, (s.dirtySlot n).set = false) ∧ ∀ r, (s.dirtyRing r).fault = none)
          ∧ s.condition ≠ .halted ∧ isNext (exec p.2.1 s) = true ∧ t.condition = s.condition
          ∧ t.notices.writing.map (fun w => w.1) = some p.2.2 := by decide

/-- NoticeCountedWhenWritten, the invariant with a record being written. -/
theorem witness_NoticeCountedWhenWritten_sound :
    let s := { posting with
      notices := { posting.notices with
        produce := 3, writing := some (report0, { write0 with address := 0x5030 }) }
      pending := [.noticeWriteDone] }
    s.NoticesSound ∧ s.condition ≠ .halted ∧ isNext (step s) = true :=
  ⟨fun _ _ => by decide, by decide, by decide⟩

/-- A record that rings 1 and 2 stage for slot 0. -/
def staged0 : Request :=
  { kind := .read, tag := 7, slot := 0, generation := 0, address := 0, length := 4, aux := 0, buffer := 0x3000 }

/-- Slot 0 READY and holding the lane, with a full list of requests of this kind, and rings 1 and 2 in its wait
order. -/
def offering (k : Kind) : State :=
  ((((onLane heldLane).setRing 1 { ring1 with staging := .holding staged0, tags := [5, 6] }).setRing 2
    { ring1 with staging := .holding staged0, tags := [] }).setEngine 0
      { Engine.initial with pendingList := List.replicate 4 (entry k) }).setWaitOrder 0 [1, 2]

theorem offering_waitOrdersSound (k kind : Kind) (aux : Word) :
    (withControl (offering k) kind 0 aux).WaitOrdersSound := by
  have order : ∀ n, (offering .read).waitOrder n = if n = 0 then [1, 2] else [] := by decide
  refine ⟨fun n => ?_, nofun⟩
  show ((offering .read).waitOrder n).Nodup ∧ ∀ r ∈ (offering .read).waitOrder n, _
  rw [order n]
  split
  · rename_i h; subst h
    refine ⟨by decide, fun r hr => ?_⟩
    obtain rfl | rfl : r = 1 ∨ r = 2 := by simpa using hr
    · exact ⟨by decide, staged0, rfl, rfl⟩
    · exact ⟨by decide, staged0, rfl, rfl⟩
  · exact ⟨.nil, nofun⟩

/-- CreateRequestRingByTable, DeleteRequestRingDrains: ring 7 ABSENT, ring 1 ACTIVE with a staged record, a waiting
request, a claim and the lane's hold, and another ring's record waiting for the freed place. -/
theorem witness_request_rings_controlled :
    let s := withControl running .createRequestRing 0 0x00100307
    let d := withControl running .deleteRequestRing 0 1
    (kindInControl s = some .createRequestRing ∧ s.condition ≠ .halted ∧ (0x00100307 : Word).toNat % 256 = (7 : RingId).val
      ∧ (7 : RingId) ≠ 0 ∧ (0x00100307 : Word).toNat / 256 % 256 = (3 : CompRingId).val)
    ∧ (kindInControl d = some .deleteRequestRing ∧ d.condition ≠ .halted ∧ (1 : Word).toNat % 256 = (1 : RingId).val
      ∧ (d.ring 1).state = .active ∧ d.deferredDelete 1 = none ∧ (d.ring 7).state = .absent)
    ∧ d.lane.Sound
    ∧ (let b := withControl (offering .read) .deleteRequestRing 0 1
      b.lane.Sound ∧ b.WaitOrdersSound ∧ kindInControl b = some .deleteRequestRing
        ∧ (b.ring 1).state = .active ∧ b.deferredDelete 1 = none ∧ b.lane.holderRing = some 1) :=
  ⟨by decide, by decide, resetLane_sound, heldLane_sound, offering_waitOrdersSound .read _ _, by decide⟩

/-- CompletionAndNoticeRingsByTable: the three kinds, with size 0 and not, the notice ring ACTIVE and not, a notice
write in progress at its removal, and a slot and a ring dirty at its installation. -/
theorem witness_CompletionAndNoticeRingsByTable :
    let s := withControl running .createCompletionRing 0 0x00100403
    kindInControl s = some .createCompletionRing ∧ s.condition ≠ .halted
      ∧ kindInControl (withControl running .deleteCompletionRing 0 3) = some .deleteCompletionRing
      ∧ kindInControl (withControl posting .setNoticeRing 0 0x00020000) = some .setNoticeRing
      ∧ (0x00100403 : Word).toNat % 256 = (3 : CompRingId).val
      ∧ (3 : CompRingId) ≠ 0 ∧ (0x00100403 : Word).toNat / 256 % 256 = (4 : VectorId).val
      ∧ (s.ring 0).state ≠ .absent ∧ (0 : Word).toNat / 65536 = 0 ∧ posting.notices.active = true
      ∧ (0x00020000 : Word).toNat / 65536 ≠ 0 ∧ s.notices.active = false
      ∧ posting.notices.writing = some (report0, write0) ∧ write0.moot = false
      ∧ (s.notices.writing = none ∧ 1 < (0x00020000 : Word).toNat / 65536)
      ∧ (let d := s.setDirtySlot 1 { SlotDirty.clear with set := true, stateKind := true }
        (d.dirtySlot 1).set = true ∧ ∀ m, m < (1 : SlotId) → (d.dirtySlot m).set = false)
      ∧ (let f := s.setDirtyRing 1 { fault := some (.badTail, 3) }
        (∀ n, (f.dirtySlot n).set = false) ∧ (f.dirtyRing 1).fault = some (.badTail, 3)
          ∧ ∀ q, q < (1 : RingId) → (f.dirtyRing q).fault = none) := by decide

def snapshot0 : SnapshotWrite :=
  { address := 0x4000, bytes := [], generation := 1, slotState := .ready, moot := false }

/-- SlotConfiguredAndRead. -/
theorem witness_SlotConfiguredAndRead :
    kindInControl (withControl running .configureSlot 7 0x0C8528F1) = some .configureSlot
      ∧ kindInControl (withControl running .readSlotRecord 7 0) = some .readSlotRecord
      ∧ (withControl running .configureSlot 7 0x0C8528F1).condition ≠ .halted
      ∧ (withControl running .readSlotRecord 7 0).snapshotWrite = none
      ∧ { withControl running .readSlotRecord 7 0 with snapshotWrite := some snapshot0 }.snapshotWrite
        = some snapshot0
      ∧ snapshot0.moot = false ∧ readySlot.config.inRange = true := by decide

/-- SlotPowerByState: an ON, an OFF out of READY, and either with an OFF standing. -/
theorem witness_SlotPowerByState :
    let s := withControl running .slotPower 0 1
    let d := { s with deferred := [.powerOff 0 8 1] }
    kindInControl s = some .slotPower ∧ s.condition ≠ .halted ∧ (1 : Word).toNat % 256 = 1
      ∧ s.deferredOff 0 = none ∧ (0 : Word).toNat % 256 = 0 ∧ (s.slot 0).state ≠ .ready
      ∧ (d.deferredOff 0).isSome = true := by decide

/-- SlotPowerOffInReady, with a request in execution and with none. -/
theorem witness_SlotPowerOffInReady :
    let s := withControl (onLane heldLane) .slotPower 0 0
    let b := s.setEngine 0 { Engine.initial with exec := some (execution .read .busRead) }
    s.lane.Sound ∧ kindInControl s = some .slotPower ∧ s.condition ≠ .halted ∧ (0 : Word).toNat % 256 = 0
      ∧ s.deferredOff 0 = none ∧ (s.slot 0).state = .ready ∧ (s.engine 0).exec = none
      ∧ s.waitOrder 0 = [] ∧ (b.engine 0).exec.isSome = true :=
  ⟨heldLane_sound, by decide⟩

/-- SlotPowerOffInReady, the end of a request under a standing OFF: by the end of its host write, by a failed host
read, by its last poll, by a COMPARE's last byte, by a refused data byte, by the abort mark in its command and in
RETRY_WAIT, and by a recovery. -/
theorem witness_SlotPowerOffInReady_exit :
    let transferring := fun (toHost : Bool) (x : Execution) => { Engine.initial with
      exec := some x, hostTransfer := some
        { toHost := toHost, address := 0x3000, length := 40, data := [], abandoned := false } }
    let marked := { execution .read .busRead with abortMark := true }
    let last := { execution .compare .busRead with next := 69 }
    let write := execution .write .pieces
    let ended := fun (status : Status) (detail : Nat) => completionOf 1 5 0 1 status 1 detail
    ∀ p ∈ [(transferring true (execution .read .hostWrite), Instr.hostWriteDone 0 true,
          { ended .success 0 with bytesDone := 40 }),
        (transferring false (execution .write .hostRead), .hostReadDone 0 none, ended .hostReadError 0),
        (writing .polling 40 write, .poll 0 false, { ended .writeTimeout 30 with pageUncertain := true }),
        ({ Engine.initial with phase := .receiving, exec := some last }, .readTransaction 0 (.data [0]),
          { ended .success 0 with bytesDone := 40 }),
        (writing .sending 0 write, .writeTransaction 0 (.dataRefused 0), ended .writeRefused 0),
        ({ Engine.initial with phase := .receiving, exec := some marked }, .abortMark 0 (.clean [1]),
          ended .aborted 0),
        ({ Engine.initial with phase := .retryWait, exec := some marked }, .retryWaitExpiry 0,
          ended .aborted 0),
        ({ Engine.initial with phase := .recovery, exec := some marked }, .recoveryEnd 0 false false,
          ended .busStuck 0)],
      let s := { (onLane heldLane).setEngine 0 p.1 with deferred := [.powerOff 0 8 1] }
      let u := { s with deferred := s.deferred.filter fun d => match d with
        | .powerOff m _ _ => m ≠ 0
        | _ => true }
      let t := after (exec p.2.1 u)
      s.condition ≠ .halted ∧ (s.engine 0).exec.isSome = true ∧ (s.engine 0).closing = false
        ∧ s.deferredOff 0 = some (8, 1) ∧ isNext (exec p.2.1 u) = true ∧ (t.engine 0).exec = none
        ∧ (t.slot 0).state = .ready ∧ p.2.2.ring = 1
        ∧ ∀ c, (t.comp c).results = (s.comp c).results ++ s.goingTo c ([] ++ [p.2.2]) := by decide

/-- AbortDecidesTarget: an unknown tag, a second ABORT of one request, a target in a pending list, on the lane,
in execution, and one whose completion awaits its write. -/
theorem witness_AbortDecidesTarget :
    let s := withControl running .abort 0 0x00050001
    let inList := s.setEngine 0 { Engine.initial with pendingList := [entry .read] }
    let inExec := s.setEngine 0 { Engine.initial with exec := some (execution .read .busRead) }
    let onTheLane := withControl ((onLane heldLane).setRing 1 { ring1 with tags := [6] }) .abort 0 0x00060001
    (kindInControl s = some .abort ∧ s.condition ≠ .halted ∧ (0x00050001 : Word).toNat % 256 = (1 : RingId).val
      ∧ (0x00050001 : Word).toNat / 65536 = (5 : Half).toNat)
    ∧ (6 : Half) ∉ (s.ring 1).tags
    ∧ ({ s with deferred := [.abort 1 5 8 1] }.deferredAbort 1 5).isSome = true
    ∧ ((s.ring 1).state ≠ .absent ∧ (5 : Half) ∈ (s.ring 1).tags ∧ s.deferredAbort 1 5 = none)
    ∧ ((inList.engine 0).pendingList = [] ++ entry .read :: [] ∧ (entry .read).ring = 1
      ∧ (entry .read).tag = 5 ∧ (∀ m, ∀ f ∈ (inList.engine m).pendingList, f.ring = 1 → f.tag = 5 →
        m = 0 ∧ f = entry .read) ∧ entry .read ∉ ([] ++ [] : List Entry))
    ∧ ((6 : Half) ∈ (onTheLane.ring 1).tags ∧ onTheLane.lane = heldLane
      ∧ (∀ m, ∀ f ∈ (onTheLane.engine m).pendingList, f.ring = 1 → f.tag ≠ 6)
      ∧ waiter1 ∈ onTheLane.lane.waiters
      ∧ ∀ v ∈ onTheLane.lane.waiters, v.ring = 1 → v.tag = 6 → v = waiter1)
    ∧ ((∀ m, ∀ f ∈ (inExec.engine m).pendingList, f.ring = 1 → f.tag ≠ 5)
      ∧ (∀ v ∈ inExec.lane.waiters, v.ring = 1 → v.tag ≠ 5)
      ∧ (inExec.engine 0).exec = some (execution .read .busRead)
      ∧ ∀ m : Fin 8, m ≠ 0 → (inExec.engine m).exec = none)
    ∧ ∀ m, (s.engine m).exec = none := by decide

/-- LaneSwitchedOnAndOff: an enable and a disable. -/
theorem witness_LaneSwitchedOnAndOff :
    let s := withControl (onLane heldLane) .laneControl 0 0x3201
    s.lane.Sound ∧ kindInControl s = some .laneControl ∧ s.condition ≠ .halted ∧ (0x3201 : Word).toNat % 256 = 1
      ∧ (0 : Word).toNat % 256 = 0 ∧ s.laneFitted = true ∧ { s with laneFitted := false }.laneFitted = false :=
  ⟨heldLane_sound, by decide⟩

/-- RequestsStart and LocksTakenAndReturned: each kind at the head of slot 0's list. -/
theorem witness_requests_start :
    ∀ k ∈ [Kind.read, .write, .compare, .refresh, .lock, .unlock],
      let s := withEngine { Engine.initial with pendingList := [entry k] }
      (s.engine 0).pendingList = entry k :: [] ∧ (entry k).kind = k ∧ (s.slot 0).state = .ready
        ∧ s.deferredOff 0 = none ∧ (s.engine 0).exec = none ∧ (s.engine 0).phase = .idle
        ∧ (s.engine 0).closing = false ∧ (s.engine 0).hostTransfer = none ∧ s.condition ≠ .halted
        ∧ s.waitOrder 0 = [] := by decide

/-- The outcome of a command that answers a next state. -/
theorem eq_next_after (o : Host.Outcome State Fault Refusal) (h : isNext o = true) : o = .next (after o) := by
  cases o <;> first | rfl | cases h

/-- RequestsStart, the place that each start frees offered to the wait order. -/
theorem witness_RequestsStart_offers :
    ∀ p ∈ [(Kind.read, Instr.read 0), (.write, .write 0), (.compare, .compare 0), (.refresh, .refresh 0),
        (.lock, .lock 0), (.unlock, .unlock 0)],
      let s := offering p.1
      (s.engine 0).pendingList = entry p.1 :: List.replicate 3 (entry p.1)
        ∧ (s.slot 0).state = .ready ∧ s.deferredOff 0 = none
        ∧ (s.engine 0).exec = none ∧ (s.engine 0).phase = .idle ∧ (s.engine 0).closing = false
        ∧ (s.engine 0).hostTransfer = none ∧ s.condition ≠ .halted ∧ s.waitOrder 0 = 1 :: [2]
        ∧ (s.ring 1).staging = .holding staged0 ∧ staged0.slot = 0
        ∧ isNext (exec p.2 (s.setWaitOrder 0 [])) = true := by decide

/-- LocksTakenAndReturned: an entry in the way of another ring, an entry of the same ring, and a full table. -/
theorem witness_LocksTakenAndReturned :
    let s := { withEngine { Engine.initial with pendingList := [entry .lock] } with
      locks := [{ slot := 0, start := 69, length := 1, owner := 2 }] }
    (s.locks.filter fun l => l.slot = 0 ∧ 30 < l.start + l.length ∧ l.start < 70) = s.locks
      ∧ (s.locks.filter fun l => l.owner ≠ 1) = s.locks
      ∧ ([{ slot := 0, start := 70, length := 1, owner := 1 : LockEntry }].filter fun l =>
        l.slot = 0 ∧ 30 < l.start + l.length ∧ l.start < 70) = []
      ∧ 16 ≤ (List.replicate 16 { slot := 1, start := 0, length := 1, owner := 1 : LockEntry }).length := by
  decide

def transfer (toHost : Bool) : HostTransfer :=
  { toHost := toHost, address := 0x3000, length := 40, data := [], abandoned := false }

/-- HostTransfersEnd: a host write, a host read with its data for an address at and below the protect end, and an
abandoned transfer of each direction, with a descriptor read that waits for it. -/
theorem witness_HostTransfersEnd :
    let x := execution .write .hostRead
    let e := fun toHost => { Engine.initial with exec := some x, hostTransfer := some (transfer toHost) }
    (e true).hostTransfer = some (transfer true) ∧ (transfer true).abandoned = false
      ∧ (e true).exec = some x ∧ (withEngine (e true)).deferredOff 0 = none
      ∧ (transfer true).toHost = true ∧ (e false).hostTransfer = some (transfer false)
      ∧ (transfer false).toHost = false ∧ (List.replicate 40 (0 : Byte)).length = (transfer false).length
      ∧ (transfer false).length ≤ 2048 ∧ Buffer.wf (e false).buffer = true
      ∧ x.entry.kind = .write ∧ x.seen.protectEnd = some 64 ∧ x.seen.descState = .valid
      ∧ { x.seen with closed := true, prot := true }.closed = true ∧ 63 < 64
      ∧ (let h := fun toHost => { transfer toHost with abandoned := true }
        let d := fun toHost => { Engine.initial with hostTransfer := some (h toHost), descRead := some .header }
        (d true).hostTransfer = some (h true) ∧ (h true).abandoned = true ∧ (h true).toHost = true
          ∧ (d false).hostTransfer = some (h false) ∧ (h false).toHost = false) := by decide

/-- ClaimsAnsweredInOrder: a claim with a wait limit of 65535, and a release. -/
theorem witness_ClaimsAnsweredInOrder :
    let f : RecordRead := { ring := 1, address := 0x1000, moot := false }
    let s := { onLane heldLane with recordRead := some f }
    s.lane.Sound ∧ s.recordRead = some f ∧ f.moot = false ∧ (s.ring f.ring).state = .active
      ∧ s.condition ≠ .halted
      ∧ validate f.ring (s.ring f.ring).tags (record 7 8 2 0 0 0 65535 0).toList = .valid
        { kind := .claimLane, tag := 8, slot := 2, generation := 0, address := 0, length := 0, aux := 65535
          buffer := 0 }
      ∧ validate f.ring (s.ring f.ring).tags (record 8 8 0 0 0 0 0 0).toList = .valid
        { kind := .releaseLane, tag := 8, slot := 0, generation := 0, address := 0, length := 0, aux := 0
          buffer := 0 } :=
  ⟨heldLane_sound, by decide⟩

/-- LaneTimersExpire: a settling with no waiter and with one, and a running wait timer. -/
theorem witness_LaneTimersExpire :
    let empty := { settlingLane with waiters := [] }
    (empty.Sound ∧ empty.state = .settling ∧ empty.waiters = [])
      ∧ (settlingLane.Sound ∧ settlingLane.state = .settling ∧ settlingLane.waiters = waiter1 :: [])
      ∧ waiter1 ∈ heldLane.waiters ∧ waiter1.timer.isSome = true :=
  ⟨⟨by unfold Lane.Sound; decide, by decide⟩, ⟨settlingLane_sound, by decide⟩, by decide⟩

/-- TakenActsByTable: completion ring 1 with one entry to take, and the notice ring, its last place freed with slot 7
or ring 7 dirty, and with a write in progress. -/
theorem witness_TakenActsByTable :
    let x := { comp1 with unconsumed := 1, produce := 1 }
    let full := { posting with
      notices := { posting.notices with writing := none, unconsumed := 3, produce := 3 } }
    let dirty := full.setDirtySlot 7 { set := true, stateKind := true, changedKind := false, mask := 0 }
    let faulted := full.setDirtyRing 7 { fault := some (.badTail, 3) }
    (x.active = true ∧ (1 : Half).toNat < x.size ∧ (1 + x.size - x.consumed) % x.size ≤ x.unconsumed)
      ∧ (posting.notices.active = true ∧ (0 : Half).toNat < posting.notices.size
        ∧ posting.notices.writing ≠ none)
      ∧ (full.notices.active = true ∧ (1 : Half).toNat < full.notices.size
        ∧ (1 + full.notices.size - full.notices.consumed) % full.notices.size ≤ full.notices.unconsumed
        ∧ full.notices.writing = none ∧ full.notices.unconsumed - 1 < full.notices.size - 1)
      ∧ ((∀ n, (full.dirtySlot n).set = false) ∧ ∀ r, (full.dirtyRing r).fault = none)
      ∧ ((dirty.dirtySlot 7).set = true ∧ ∀ m : Fin 8, m < 7 → (dirty.dirtySlot m).set = false)
      ∧ ((∀ n, (faulted.dirtySlot n).set = false) ∧ (faulted.dirtyRing 7).fault = some (.badTail, 3)
        ∧ ∀ q : Fin 8, q < 7 → (faulted.dirtyRing q).fault = none) := by decide

end Sys2Proof.Tests
end

section
/-! What the fault of a request ring does (R97), and POST by its table (R83). -/

namespace Sys2Proof.Machine

/-! ### Notices of a ring fault -/

/-- Writing a merged record keeps a ring fault that a notice reports (R168, R169). -/
theorem State.drainDirty_faultNoticed (s : State) (r : RingId) (cause : FaultCause) (head : Nat)
    (h : (s.dirtyRing r).fault = some (cause, head)) : s.drainDirty.faultNoticed r cause head := by
  unfold State.drainDirty
  split
  · cases hp : s.nextDirty with
    | none => exact .inl h
    | some p =>
      unfold State.nextDirty at hp
      split at hp
      · obtain rfl := Option.some.inj hp
        exact .inl h
      · obtain ⟨q, -, hq⟩ := List.exists_of_findSome?_eq_some hp
        obtain ⟨⟨cause', head'⟩, hf, rfl⟩ := Option.map_eq_some_iff.mp hq
        by_cases e : r = q
        · subst e
          obtain ⟨rfl, rfl⟩ := Prod.mk.inj (Option.some.inj (h.symm.trans hf))
          exact .inr ⟨_, rfl⟩
        · have hkept : ((s.setDirtyRing q RingDirty.clear).dirtyRing r).fault = some (cause, head) := by
            rw [State.setDirtyRing_dirtyRing_ne _ _ _ _ e, h]
          exact .inl hkept
  · exact .inl h

/-- A RING_FAULT notice handed over is being written or stands as the ring's flag (R167). -/
theorem State.notify_faultNoticed (s : State) (r : RingId) (cause : FaultCause) (head : Nat) :
    (s.notify (.ring r cause head)).faultNoticed r cause head := by
  unfold State.notify
  split
  · exact .inr ⟨_, rfl⟩
  · apply State.drainDirty_faultNoticed
    simp [State.setDirty]

/-! ### Dropping a staged record -/

/-- The staging place holds a valid record that has not been taken. -/
def Staging.held : Staging → Bool
  | .holding _ => true
  | .empty | .fetching | .refused => false

@[simp] theorem Staging.held_holding (q : Request) : (Staging.holding q).held = true := rfl
@[simp] theorem Staging.held_empty : Staging.empty.held = false := rfl
@[simp] theorem Staging.held_fetching : Staging.fetching.held = false := rfl
@[simp] theorem Staging.held_refused : Staging.refused.held = false := rfl

theorem State.returnReservation_comp (s : State) (r : RingId) (c : CompRingId) :
    (s.returnReservation r).comp c = if (s.ring r).bound = some c then
      { s.comp c with reserved := (s.comp c).reserved - 1 } else s.comp c := by
  unfold State.returnReservation
  split
  · next h => simp [h]
  · next d h =>
    rw [State.modComp_eq, State.setComp_comp, h]
    by_cases e : c = d
    · subst e; simp
    · simp [e, Ne.symm e]

/-- Taking a ring out of the wait orders of the slots of a list leaves everything but those orders. -/
theorem foldl_leaveOrder_spec (r : RingId) (l : List SlotId) (s : State) :
    let t := l.foldl (fun s n => s.setWaitOrder n ((s.waitOrder n).filter fun q => q ≠ r)) s
    (∃ w, t = { s with waitOrders := w })
      ∧ ∀ n, t.waitOrder n = if n ∈ l then (s.waitOrder n).filter fun q => q ≠ r else s.waitOrder n := by
  induction l generalizing s with
  | nil => exact ⟨⟨s.waitOrders, rfl⟩, fun n => by simp⟩
  | cons m l ih =>
    obtain ⟨⟨w, hf⟩, ho⟩ := ih (s.setWaitOrder m ((s.waitOrder m).filter fun q => q ≠ r))
    refine ⟨⟨w, hf⟩, fun n => (ho n).trans ?_⟩
    rw [State.setWaitOrder_waitOrder]
    by_cases e : n = m
    · subst e; simp
    · simp [e]

theorem State.leaveWaitOrders_frame (s : State) (r : RingId) :
    ∃ w, s.leaveWaitOrders r = { s with waitOrders := w } :=
  (foldl_leaveOrder_spec r allSlots s).1

theorem mem_allSlots (n : SlotId) : n ∈ allSlots := by
  revert n; decide

theorem State.leaveWaitOrders_waitOrder (s : State) (r : RingId) (n : SlotId) :
    (s.leaveWaitOrders r).waitOrder n = (s.waitOrder n).filter fun q => q ≠ r :=
  ((foldl_leaveOrder_spec r allSlots s).2 n).trans (if_pos (mem_allSlots n))

@[simp] theorem State.leaveWaitOrders_ring (s : State) (r q : RingId) :
    (s.leaveWaitOrders r).ring q = s.ring q := by
  obtain ⟨_, h⟩ := s.leaveWaitOrders_frame r
  rw [h]; rfl

@[simp] theorem State.leaveWaitOrders_comp (s : State) (r : RingId) (c : CompRingId) :
    (s.leaveWaitOrders r).comp c = s.comp c := by
  obtain ⟨_, h⟩ := s.leaveWaitOrders_frame r
  rw [h]; rfl

section
variable (s : State) (r : RingId)

theorem State.dropStaged_of_held (h : (s.ring r).staging.held = true) :
    s.dropStaged r
      = ((s.setRing r { s.ring r with staging := .empty }).returnReservation r).leaveWaitOrders r := by
  unfold State.dropStaged
  cases hx : (s.ring r).staging with
  | holding q => rfl
  | empty | fetching | refused => simp [hx] at h

theorem State.dropStaged_of_not_held (h : (s.ring r).staging.held = false) : s.dropStaged r = s := by
  unfold State.dropStaged
  cases hx : (s.ring r).staging with
  | holding q => simp [hx] at h
  | empty | fetching | refused => rfl

theorem State.dropStaged_frame :
    ∃ a b c, s.dropStaged r = { s with rings := a, compRings := b, waitOrders := c } := by
  cases h : (s.ring r).staging.held with
  | false => exact ⟨s.rings, s.compRings, s.waitOrders, s.dropStaged_of_not_held r h⟩
  | true =>
    rw [s.dropStaged_of_held r h]
    obtain ⟨b, hb⟩ := (s.setRing r { s.ring r with staging := .empty }).returnReservation_frame r
    obtain ⟨c, hc⟩ := State.leaveWaitOrders_frame
      ((s.setRing r { s.ring r with staging := .empty }).returnReservation r) r
    exact ⟨_, b, c, by rw [hc, hb]; rfl⟩

/-- A record held leaves the staging place; a fetch in progress and a refusal stay (R97). -/
theorem State.dropStaged_ring (q : RingId) :
    (s.dropStaged r).ring q = if q = r then
      { s.ring r with staging := if (s.ring r).staging.held then .empty else (s.ring r).staging }
      else s.ring q := by
  cases h : (s.ring r).staging.held with
  | true => simp [s.dropStaged_of_held r h, State.setRing_ring]
  | false =>
    rw [s.dropStaged_of_not_held r h]
    split
    · next e => subst e; rfl
    · rfl

/-- With the record goes its reservation (R85). -/
theorem State.dropStaged_comp (c : CompRingId) :
    (s.dropStaged r).comp c
      = if (s.ring r).staging.held = true ∧ (s.ring r).bound = some c then
        { s.comp c with reserved := (s.comp c).reserved - 1 } else s.comp c := by
  cases h : (s.ring r).staging.held with
  | true => simp [s.dropStaged_of_held r h, State.returnReservation_comp]
  | false => simp [s.dropStaged_of_not_held r h]

/-- With the record goes the ring's place in a wait order (R92). -/
theorem State.dropStaged_waitOrder (n : SlotId) :
    (s.dropStaged r).waitOrder n
      = if (s.ring r).staging.held then (s.waitOrder n).filter fun q => q ≠ r else s.waitOrder n := by
  cases h : (s.ring r).staging.held with
  | true => simp [s.dropStaged_of_held r h, State.leaveWaitOrders_waitOrder]
  | false => simp [s.dropStaged_of_not_held r h]

end

/-! ### The fault of a ring (R97) -/

section
variable (s : State) (r : RingId) (cause : FaultCause)

theorem State.faultRing_frame : ∃ a b c d e f, s.faultRing r cause = { s with
    rings := a, compRings := b, waitOrders := c, notices := d, slotDirty := e, ringDirty := f } := by
  obtain ⟨a, b, c, hd⟩ := (s.setRing r { s.ring r with state := .faulted }).dropStaged_frame r
  obtain ⟨d, e, f, hn⟩ := State.notify_frame
    ((s.setRing r { s.ring r with state := .faulted }).dropStaged r) (.ring r cause (s.ring r).head)
  exact ⟨a, b, c, d, e, f, hn.trans (by rw [hd]; rfl)⟩

theorem State.faultRing_faultNoticed :
    (s.faultRing r cause).faultNoticed r cause (s.ring r).head :=
  State.notify_faultNoticed _ r cause _

theorem State.faultRing_ring (q : RingId) :
    (s.faultRing r cause).ring q = if q = r then
      { s.ring r with
        state := .faulted
        staging := if (s.ring r).staging.held then .empty else (s.ring r).staging }
      else s.ring q := by
  by_cases e : q = r
  · simp [State.faultRing, State.dropStaged_ring, e]
  · simp [State.faultRing, State.dropStaged_ring, State.setRing_ring, e]

theorem State.faultRing_comp (c : CompRingId) :
    (s.faultRing r cause).comp c
      = if (s.ring r).staging.held = true ∧ (s.ring r).bound = some c then
        { s.comp c with reserved := (s.comp c).reserved - 1 } else s.comp c := by
  simp [State.faultRing, State.dropStaged_comp]

theorem State.faultRing_waitOrder (n : SlotId) :
    (s.faultRing r cause).waitOrder n
      = if (s.ring r).staging.held then (s.waitOrder n).filter fun q => q ≠ r else s.waitOrder n := by
  simp [State.faultRing, State.dropStaged_waitOrder]

end

/-! ### POST (R83) -/

theorem State.halted_iff (s : State) : s.halted = true ↔ s.condition = .halted := beq_iff_eq

theorem exec_post (s : State) (r : RingId) (v : Half) (h : s.inReset = false) :
    exec (.post r v) s = .next (s.writePost r v.toNat) := by
  show execPost r v s = _
  simp [execPost, h]

section
variable (s : State) (r : RingId) (tail : Nat)

theorem State.writePost_ignored (h : s.condition = .halted ∨ (s.ring r).state ≠ .active) :
    s.writePost r tail = { s with postError := true } := by
  unfold State.writePost
  dsimp only
  split
  · rfl
  · next hn => exact if_pos (h.resolve_left fun hc => hn (s.halted_iff.mpr hc))

/-- On an ACTIVE ring of a device not halted, the tail decides. -/
theorem State.writePost_active (hc : s.condition ≠ .halted) (ha : (s.ring r).state = .active) :
    s.writePost r tail =
      if (s.ring r).size ≤ tail then s.faultRing r .badTail
      else if ringDiff (s.ring r).size tail (s.ring r).head < (s.ring r).posted then
        { s with postError := true }
      else s.setRing r { s.ring r with tail := tail } := by
  have hh : ¬ s.halted = true := fun h => hc (s.halted_iff.mp h)
  unfold State.writePost
  dsimp only
  rw [if_neg hh, if_neg (not_not_intro ha)]
  rfl

end

end Sys2Proof.Machine
end

section
open Sys2Proof Sys2Proof.Machine

/-- Settles O40: POST is read off `writePost` case by case, and its third case is `faultRing`. -/
theorem postActsByTable : Obligations.PostActsByTable := by
  intro s r v hreset x ahead
  rw [exec_post s r v hreset]
  refine ⟨fun h => ?_, fun hc ha hin => ?_, fun hc ha hout => ?_⟩
  · rw [s.writePost_ignored r _ h]
  · rw [s.writePost_active r _ hc ha, if_neg (Nat.not_le.mpr hin)]
    rfl
  · intro held
    have hheld : (s.ring r).staging.held = held := by
      unfold held x
      cases (s.ring r).staging with
      | holding q => rfl
      | empty | fetching | refused => rfl
    rw [s.writePost_active r _ hc ha, if_pos hout]
    obtain ⟨_, _, _, _, _, _, hframe⟩ := s.faultRing_frame r .badTail
    exact ⟨_, rfl, s.faultRing_faultNoticed r .badTail, by rw [hframe],
      fun q => by rw [State.faultRing_ring, hheld], fun c => by rw [State.faultRing_comp, hheld],
      fun n => by rw [State.faultRing_waitOrder, hheld]⟩
end

section
/-! How a request at the head of a pending list starts and ends in one event (R124), and the tables of LOCK and UNLOCK
(R143, R144, R146). -/

namespace Sys2Proof.Machine

/-! ### The start of a request (R124) -/

section
variable (s : State) (n : SlotId)

theorem State.mayStart_iff : s.mayStart n = true ↔
    (s.slot n).state = .ready ∧ s.deferredOff n = none ∧ (s.engine n).exec = none
      ∧ (s.engine n).phase = .idle ∧ (s.engine n).closing = false ∧ (s.engine n).hostTransfer = none
      ∧ s.condition ≠ .halted := by
  simp [State.mayStart, State.halted, and_assoc]

/-- What becomes of an entry at its start: the request in execution, with the values read together (R16, R124). -/
def Entry.started (e : Entry) (x : Slot) (stage : Stage) : Execution :=
  { entry := e, seen := x.seen, stage := stage, next := e.address, bytesDone := 0, abortMark := false }

/-- The start of an entry for which no record waits: the engine alone changes. -/
def State.takeUp (e : Entry) (rest : List Entry) (stage : Stage) : State :=
  s.setEngine n { s.engine n with pendingList := rest, exec := some (e.started (s.slot n) stage) }

/-- With no record in the wait order, no place is taken (R92). -/
theorem State.offerPlaces_of_no_waiting (h : s.waitOrder n = []) : s.offerPlaces n = s := by
  unfold State.offerPlaces
  rw [h]
  rfl

theorem State.begin_of_no_waiting (e : Entry) (rest : List Entry) (stage : Stage)
    (h : s.waitOrder n = []) : s.begin n e rest stage = s.takeUp n e rest stage :=
  State.offerPlaces_of_no_waiting _ n h

theorem State.startWith_of_mayStart (k : Kind) (stage : Stage) (go : State → Entry → Execution → State)
    (e : Entry) (rest : List Entry) (hlist : (s.engine n).pendingList = e :: rest)
    (hmay : s.mayStart n = true) (hkind : e.kind = k) (horder : s.waitOrder n = []) :
    s.startWith n k stage go = go (s.takeUp n e rest stage) e (e.started (s.slot n) stage) := by
  have hhead : s.startable n k = some (e, rest) := by simp [State.startable, hlist, hmay, hkind]
  have hexec : ((s.takeUp n e rest stage).engine n).exec = some (e.started (s.slot n) stage) := by
    simp [State.takeUp]
  simp only [State.startWith, hhead, State.begin_of_no_waiting s n e rest stage horder, hexec]

/-! ### The end of a request (R93, R124) -/

/-- With no SLOT_POWER OFF standing, a request's end idles the engine and hands over its completion. -/
theorem State.finish_of_no_off (c : Completion) (h : s.deferredOff n = none) :
    s.finish n c = (s.modEngine n fun e => { e.idled with exec := none, descRead := none }).handOver c := by
  have hoff : (s.modEngine n fun e => { e.idled with exec := none, descRead := none }).deferredOff n = none :=
    (State.deferredOff_congr s _ n rfl).trans h
  exact if_neg (by simp only [hoff, Option.isSome_none, Bool.false_eq_true, not_false_eq_true])

/-- The end of a request on an engine that was IDLE before it started. -/
theorem Engine.ended_of_idle (e : Engine) (rest : List Entry) (x : Execution) (hphase : e.phase = .idle)
    (hexec : e.exec = none) :
    { ({ e with pendingList := rest, exec := some x } : Engine).idled with exec := none, descRead := none }
      = { e with
        pendingList := rest, piece := none, frame := [], scl := .released, sda := .released
        descRead := none } := by
  simp [Engine.idled, Engine.enter, BusPhase.clocking, hphase, hexec]

end

/-! ### A LOCK or UNLOCK carried out in the event that starts it (R143, R146) -/

/-- From `s` to `t` the entry at the head of the list of slot `n` has started and ended with this outcome: the lock
table is the outcome's, one result is handed over, and of the rest only the slot's engine has changed. -/
def State.lockEnded (s t : State) (n : SlotId) (e : Entry) (rest : List Entry)
    (o : Status × Nat × List LockEntry) : Prop :=
  t = { s with engines := t.engines, compRings := t.compRings, locks := o.2.2 }
    ∧ (∀ m, t.engine m = if m = n then { s.engine n with
        pendingList := rest, piece := none, frame := [], scl := .released, sda := .released
        descRead := none } else s.engine m)
    ∧ s.handed t [completionOf e.ring e.tag n.val e.ringHead o.1 (s.slot n).generation o.2.1]

theorem State.finishLock_takeUp (s : State) (n : SlotId) (e : Entry) (rest : List Entry) (stage : Stage)
    (o : Status × Nat × List LockEntry) (hmay : s.mayStart n = true) :
    s.lockEnded ((s.takeUp n e rest stage).finishLock n (e.started (s.slot n) stage) o) n e rest o := by
  obtain ⟨-, hoff, hexec, hphase, -⟩ := (s.mayStart_iff n).mp hmay
  let u : State := { s.takeUp n e rest stage with locks := o.2.2 }
  let c := (e.started (s.slot n) stage).result n o.1 o.2.1
  let v := u.modEngine n fun g => { g.idled with exec := none, descRead := none }
  have hfinish : u.finish n c = v.handOver c :=
    u.finish_of_no_off n c ((State.deferredOff_congr s u n rfl).trans hoff)
  obtain ⟨comps, hframe⟩ := State.handOver_frame v c
  show s.lockEnded (u.finish n c) n e rest o
  rw [hfinish]
  refine ⟨by rw [hframe]; rfl, fun m => ?_, State.handOver_handed v c⟩
  have hu : ∀ k, u.engine k = (s.takeUp n e rest stage).engine k := fun _ => rfl
  rw [hframe]
  show v.engine m = _
  by_cases hm : m = n
  · subst hm
    simp [v, hu, State.takeUp, Engine.ended_of_idle _ _ _ hphase hexec]
  · simp [v, hu, State.takeUp, State.setEngine_engine, hm]

section
variable (s : State) (n : SlotId) (e : Entry) (rest : List Entry)

theorem exec_lock (hlist : (s.engine n).pendingList = e :: rest) (hmay : s.mayStart n = true)
    (hkind : e.kind = .lock) (horder : s.waitOrder n = []) :
    ∃ t, exec (.lock n) s = .next t
      ∧ s.lockEnded t n e rest (s.lockOutcome n (e.started (s.slot n) .busRead)) := by
  refine ⟨_, ?_, s.finishLock_takeUp n e rest .busRead _ hmay⟩
  exact congrArg Host.Outcome.next
    (s.startWith_of_mayStart n .lock .busRead _ e rest hlist hmay hkind horder)

theorem exec_unlock (hlist : (s.engine n).pendingList = e :: rest) (hmay : s.mayStart n = true)
    (hkind : e.kind = .unlock) (horder : s.waitOrder n = []) :
    ∃ t, exec (.unlock n) s = .next t
      ∧ s.lockEnded t n e rest (s.unlockOutcome n (e.started (s.slot n) .busRead)) := by
  refine ⟨_, ?_, s.finishLock_takeUp n e rest .busRead _ hmay⟩
  exact congrArg Host.Outcome.next
    (s.startWith_of_mayStart n .unlock .busRead _ e rest hlist hmay hkind horder)

end

/-! ### The entries in the way of a range (R142, R144) -/

theorem staleFor_iff (e : Entry) (g : Half) :
    staleFor e g = true ↔ e.generation ≠ 0 ∧ e.generation ≠ g := decide_eq_true_iff

theorem State.overlapping_eq (s : State) (n : SlotId) (start length : Nat) :
    s.overlapping n start length
      = s.locks.filter fun l => l.slot = n ∧ start < l.start + l.length ∧ l.start < start + length := by
  simp [State.overlapping, rangesOverlap]

theorem lowestStart_eq_none_iff (ls : List LockEntry) : lowestStart ls = none ↔ ls = [] := by
  cases ls with
  | nil => exact iff_of_true rfl rfl
  | cons l ls =>
    refine iff_of_false (fun h => ?_) (List.cons_ne_nil l ls)
    unfold lowestStart at h
    cases hl : lowestStart ls <;> simp [hl] at h

/-- The lowest start is one of the list, and no entry of the list starts below it. -/
theorem lowestStart_eq_some (ls : List LockEntry) (a : Nat) (h : lowestStart ls = some a) :
    (∃ l ∈ ls, l.start = a) ∧ ∀ l ∈ ls, a ≤ l.start := by
  induction ls generalizing a with
  | nil => cases h
  | cons l ls ih =>
    unfold lowestStart at h
    cases hl : lowestStart ls with
    | none =>
      obtain rfl := (lowestStart_eq_none_iff ls).mp hl
      obtain rfl : l.start = a := by simpa [hl] using h
      simp
    | some b =>
      obtain ⟨⟨m, hm, hmb⟩, hle⟩ := ih b hl
      obtain rfl : min l.start b = a := by simpa [hl] using h
      constructor
      · by_cases hlb : l.start ≤ b
        · exact ⟨l, List.mem_cons_self, by omega⟩
        · exact ⟨m, List.mem_cons_of_mem l hm, by omega⟩
      · intro k hk
        obtain rfl | hk := List.mem_cons.mp hk
        · exact Nat.min_le_left _ _
        · exact (Nat.min_le_right _ _).trans (hle k hk)

/-- An entry that starts lowest gives the lowest start. -/
theorem lowestStart_of_least (ls : List LockEntry) (l : LockEntry) (hl : l ∈ ls)
    (hleast : ∀ m ∈ ls, l.start ≤ m.start) : lowestStart ls = some l.start := by
  cases h : lowestStart ls with
  | none =>
    obtain rfl := (lowestStart_eq_none_iff ls).mp h
    cases hl
  | some a =>
    obtain ⟨⟨m, hm, rfl⟩, hle⟩ := lowestStart_eq_some ls a h
    rw [Nat.le_antisymm (hle l hl) (hleast m hm)]

/-! ### The tables of LOCK and UNLOCK, row by row (R143, R144, R146) -/

section
variable (s : State) (n : SlotId) (x : Execution)

theorem State.lockOutcome_stale (h : staleFor x.entry x.seen.generation = true) :
    s.lockOutcome n x = (.stale, x.entry.generation.toNat, s.locks) :=
  if_pos h

theorem State.unlockOutcome_stale (h : staleFor x.entry x.seen.generation = true) :
    s.unlockOutcome n x = (.stale, x.entry.generation.toNat, s.locks) :=
  if_pos h

/-- The entry that a LOCK adds and an UNLOCK looks for (R143, R146). -/
def Execution.lockEntry (x : Execution) (n : SlotId) : LockEntry :=
  { slot := n, start := x.entry.address, length := x.entry.length, owner := x.entry.ring }

section
variable (hcurrent : ¬ staleFor x.entry x.seen.generation = true)
include hcurrent

theorem State.lockOutcome_outOfRange (h : x.seen.capacity < x.entry.stop) :
    s.lockOutcome n x = (.outOfRange, x.entry.stop, s.locks) :=
  (if_neg hcurrent).trans (if_pos h)

theorem State.unlockOutcome_held (h : x.lockEntry n ∈ s.locks) :
    s.unlockOutcome n x = (.success, s.locks.length - 1, s.locks.erase (x.lockEntry n)) := by
  rw [← List.length_erase_of_mem h]
  exact (if_neg hcurrent).trans (if_pos h)

theorem State.unlockOutcome_notHeld (h : x.lockEntry n ∉ s.locks) :
    s.unlockOutcome n x = (.notHeld, 0, s.locks) :=
  (if_neg hcurrent).trans (if_neg h)

variable (hrange : ¬ x.seen.capacity < x.entry.stop)
include hrange

theorem State.lockOutcome_conflict (a : Nat)
    (h : lowestStart ((s.overlapping n x.entry.address x.entry.length).filter
      fun l => l.owner ≠ x.entry.ring) = some a) :
    s.lockOutcome n x = (.conflict, a, s.locks) := by
  simp only [State.lockOutcome, if_neg hcurrent, if_neg hrange, h]

theorem State.lockOutcome_overlap (a : Nat)
    (hothers : (s.overlapping n x.entry.address x.entry.length).filter
      (fun l => l.owner ≠ x.entry.ring) = [])
    (h : lowestStart (s.overlapping n x.entry.address x.entry.length) = some a) :
    s.lockOutcome n x = (.overlap, a, s.locks) := by
  simp only [State.lockOutcome, if_neg hcurrent, if_neg hrange, hothers, lowestStart, h]

/-- With no entry in the way, the room in the table decides (R142). -/
theorem State.lockOutcome_of_no_overlapping
    (h : s.overlapping n x.entry.address x.entry.length = []) :
    s.lockOutcome n x = if 16 ≤ s.locks.length then (.tableFull, 16, s.locks)
      else (.success, s.locks.length + 1, s.locks ++ [x.lockEntry n]) := by
  simp only [State.lockOutcome, if_neg hcurrent, if_neg hrange, h, List.filter_nil, lowestStart]
  rfl

end
end
end Sys2Proof.Machine
end

section
open Sys2Proof Sys2Proof.Machine

/-- Settles O58: both commands come down to their outcome on the table (`exec_lock`, `exec_unlock`), and each row of
the statement is a row of the outcome. -/
theorem locksTakenAndReturned : Obligations.LocksTakenAndReturned := by
  intro s n entry rest x e stop mine overlapping others stale ended
    hlist hready hoff hexec hphase hclosing htransfer hcondition horder
  have hmay : s.mayStart n = true :=
    (s.mayStart_iff n).mpr ⟨hready, hoff, hexec, hphase, hclosing, htransfer, hcondition⟩
  let y := entry.started x .busRead
  have hoverlapping : s.overlapping n entry.address entry.length = overlapping :=
    s.overlapping_eq n entry.address entry.length
  have hothers : (s.overlapping n entry.address entry.length).filter (fun l => l.owner ≠ entry.ring) = others :=
    congrArg (List.filter fun l => l.owner ≠ entry.ring) hoverlapping
  have hstale : staleFor entry x.generation = true ↔ stale := staleFor_iff entry x.generation
  refine ⟨fun hkind => ?_, fun hkind => ?_⟩
  · obtain ⟨t, hnext, hend⟩ := exec_lock s n entry rest hlist hmay hkind horder
    have row : ∀ {status detail locks}, s.lockOutcome n y = (status, detail, locks) →
        ended t status detail locks := fun h => by rw [h] at hend; exact hend
    refine ⟨t, hnext, ?_⟩
    split_ifs with hs hc
    · exact row (s.lockOutcome_stale n y (hstale.mpr hs))
    · exact row (s.lockOutcome_outOfRange n y (hs ∘ hstale.mp) hc)
    · have hcurrent := hs ∘ hstale.mp
      refine ⟨fun l hl hleast => row ?_, fun hown l hl hleast => row ?_, fun hnone hfull => row ?_,
        fun hnone hroom => row ?_⟩
      · exact s.lockOutcome_conflict n y hcurrent hc l.start
          ((congrArg lowestStart hothers).trans (lowestStart_of_least others l hl hleast))
      · exact s.lockOutcome_overlap n y hcurrent hc l.start (hothers.trans hown)
          ((congrArg lowestStart hoverlapping).trans (lowestStart_of_least overlapping l hl hleast))
      · exact (s.lockOutcome_of_no_overlapping n y hcurrent hc (hoverlapping.trans hnone)).trans
          (if_pos hfull)
      · exact (s.lockOutcome_of_no_overlapping n y hcurrent hc (hoverlapping.trans hnone)).trans
          (if_neg (Nat.not_le.mpr hroom))
  · obtain ⟨t, hnext, hend⟩ := exec_unlock s n entry rest hlist hmay hkind horder
    have row : ∀ {status detail locks}, s.unlockOutcome n y = (status, detail, locks) →
        ended t status detail locks := fun h => by rw [h] at hend; exact hend
    refine ⟨t, hnext, ?_⟩
    split_ifs with hs hm
    · exact row (s.unlockOutcome_stale n y (hstale.mpr hs))
    · exact row (s.unlockOutcome_held n y (hs ∘ hstale.mp) hm)
    · exact row (s.unlockOutcome_notHeld n y (hs ∘ hstale.mp) hm)

end

section
/-! How CLAIM_LANE and RELEASE_LANE are answered in the event that stages them (R87, R91, R156, R158). -/

namespace Sys2Proof.Machine

/-! ### A valid record staged and taken in one event (R87, R91) -/

theorem exec_recordReadDone_valid (s : State) (f : RecordRead) (l : Vector Byte 32) (q : Request)
    (hread : s.recordRead = some f) (hmoot : f.moot = false) (hactive : (s.ring f.ring).state = .active)
    (hcondition : s.condition ≠ .halted)
    (hvalid : validate f.ring (s.ring f.ring).tags l.toList = .valid q) :
    exec (.recordReadDone (some l)) s = .next
      (({ s with recordRead := none }.setRing f.ring
        { s.ring f.ring with staging := .holding q }).dispatch f.ring q) := by
  have hhalted : ¬ s.halted = true := fun h => hcondition (s.halted_iff.mp h)
  have hstage : { s with recordRead := none }.stage f.ring l.toList
      = ({ s with recordRead := none }.setRing f.ring
          { s.ring f.ring with staging := .holding q }).dispatch f.ring q := by
    have hvalid' : validate f.ring ({ s with recordRead := none }.ring f.ring).tags l.toList = .valid q := hvalid
    simp only [State.stage, hvalid']
    rfl
  show execRecordReadDone (some l) s = _
  simp only [execRecordReadDone, hread, hmoot, Bool.false_eq_true, if_false, hactive, ne_eq,
    not_true_eq_false, hhalted, hstage]

section
variable (s : State) (r : RingId) (q : Request)

/-- Taking the record that stands in the staging place leaves no trace of its having stood there. -/
theorem State.acceptRecord_staged :
    (s.setRing r { s.ring r with staging := .holding q }).acceptRecord r q.tag
      = s.setRing r ((s.ring r).taken q.tag) := by
  simp [State.acceptRecord, RequestRing.taken, RequestRing.nextHead, nextIndex]

/-- Taking a record leaves every ring's binding. -/
theorem State.setRing_taken_bound (tag : Half) (k : RingId) :
    ((s.setRing r ((s.ring r).taken tag)).ring k).bound = (s.ring k).bound := by
  rw [State.setRing_ring]
  split
  · next e => subst e; rfl
  · rfl

/-- A staged CLAIM_LANE is taken and goes to the arbiter. -/
theorem State.dispatch_claimLane (hkind : q.kind = .claimLane) :
    (s.setRing r { s.ring r with staging := .holding q }).dispatch r q
      = (s.setRing r ((s.ring r).taken q.tag)).claimLane r q ((s.ring r).taken q.tag).head := by
  simp only [State.dispatch, hkind, State.acceptRecord_staged, State.setRing_ring_same]
  rfl

/-- A staged RELEASE_LANE is taken and goes to the arbiter. -/
theorem State.dispatch_releaseLane (hkind : q.kind = .releaseLane) :
    (s.setRing r { s.ring r with staging := .holding q }).dispatch r q
      = (s.setRing r ((s.ring r).taken q.tag)).releaseLane r q ((s.ring r).taken q.tag).head := by
  simp only [State.dispatch, hkind, State.acceptRecord_staged, State.setRing_ring_same]
  rfl

end

/-! ### What an answer of the arbiter changes -/

/-- From `s` to `t` the arbiter has become `lane`, slot `n` has the role given, if one is, and these results have
been handed over; nothing else has changed. -/
def State.laneAnswered (s t : State) (n : SlotId) (lane : Lane) (role : Option LaneRole)
    (rs : List Completion) : Prop :=
  t = { s with slots := t.slots, lane := lane, compRings := t.compRings }
    ∧ (∀ m, t.slot m = if m = n then { s.slot n with laneRole := role.getD (s.slot n).laneRole }
        else s.slot m)
    ∧ s.handed t rs

/-- The completion of an answer comes last. -/
theorem State.laneAnswered_handOver {s t : State} {n : SlotId} {lane : Lane} {role : Option LaneRole}
    (h : s.laneAnswered t n lane role []) (c : Completion) :
    s.laneAnswered (t.handOver c) n lane role [c] := by
  obtain ⟨hframe, hslot, hnone⟩ := h
  obtain ⟨comps, hover⟩ := State.handOver_frame t c
  refine ⟨by rw [hover, hframe], fun m => (State.handOver_slot t c m).trans (hslot m), fun d => ?_⟩
  have hsame : t.goingTo d [c] = s.goingTo d [c] :=
    State.goingTo_congr s t d [c] (by rw [hframe]; rfl) fun r => by rw [hframe]; rfl
  have hbefore : (t.comp d).results = (s.comp d).results := by
    simpa [State.goingTo] using hnone d
  rw [State.handOver_results, hsame, hbefore]

section
variable (s : State) (n : SlotId)

theorem State.handed_nil_of_compRings (t : State) (h : t.compRings = s.compRings) : s.handed t [] :=
  fun c => by simp [State.goingTo, State.comp, h]

theorem State.laneAnswered_self : s.laneAnswered s n s.lane none [] := by
  refine ⟨rfl, fun m => ?_, s.handed_nil_of_compRings s rfl⟩
  split
  · next e => subst e; rfl
  · rfl

theorem State.laneAnswered_setRole (g : Lane → Lane) (role : LaneRole) :
    s.laneAnswered ((s.modLane g).setRole n role) n (g s.lane) (some role) [] :=
  ⟨rfl, fun m => State.setRole_slot (s.modLane g) n m role, s.handed_nil_of_compRings _ rfl⟩

/-- A completion alone leaves the arbiter and the slot's role. -/
theorem State.laneAnswered_only (c : Completion) : s.laneAnswered (s.handOver c) n s.lane none [c] :=
  State.laneAnswered_handOver (s.laneAnswered_self n) c

end

theorem State.waiterOf_isSome (s : State) (n : SlotId) :
    (s.waiterOf n).isSome = true ↔ ∃ w ∈ s.lane.waiters, w.slot = n := by
  simp [State.waiterOf, List.find?_isSome]

/-! ### The tables of the arbiter (R156, R158) -/

/-- The arbiter after a grant to slot `n` for ring `r` (R154). -/
def Lane.granted (l : Lane) (n : SlotId) (r : RingId) : Lane :=
  { l with
    state := .held, holder := some n, holderRing := some r, settleTimer := none, lsel := n
    len := true }

/-- The arbiter after the end of a hold (R158). -/
def Lane.released (l : Lane) : Lane :=
  { l with
    state := if l.waiters = [] then .free else .settling, holder := none, holderRing := none
    settleTimer := if l.waiters = [] then none else some l.settleInterval
    len := false }

section
variable (s : State) (n : SlotId)

theorem State.grantLane_laneAnswered (r : RingId) :
    s.laneAnswered (s.grantLane n r) n (s.lane.granted n r) (some .holder) [] :=
  s.laneAnswered_setRole n (fun l => l.granted n r) .holder

theorem State.endHold_laneAnswered :
    s.laneAnswered (s.endHold n) n s.lane.released (some .none) [] := by
  have hreleased : (if s.lane.waiters.isEmpty then
      { s.lane with state := .free, holder := none, holderRing := none, settleTimer := none, len := false }
    else
      { s.lane with
        state := .settling, holder := none, holderRing := none
        settleTimer := some s.lane.settleInterval, len := false }) = s.lane.released := by
    unfold Lane.released
    cases h : s.lane.waiters <;> simp [h]
  rw [← hreleased]
  exact s.laneAnswered_setRole n _ .none

end

end Sys2Proof.Machine
end

section
open Sys2Proof Sys2Proof.Machine

/-- Settles O59: the record is taken and goes to the arbiter in one event, and the tests of the statement are those of
the arbiter in the same order: `hrow` says what remains of its table after the tests that fail. -/
theorem claimsAnsweredInOrder : Obligations.ClaimsAnsweredInOrder := by
  intro s f l q _ hread hmoot hactive hcondition hvalid r x head u answered result limit
  have hexec := exec_recordReadDone_valid s f l q hread hmoot hactive hcondition hvalid
  have row : ∀ {t v lane role rs}, t = v → u.laneAnswered v q.slot lane role rs → answered t lane role rs := by
    rintro t _ lane role rs rfl ⟨hframe, hslot, hhanded⟩
    refine ⟨hframe, hslot, fun c => (hhanded c).trans ?_⟩
    rw [State.goingTo_congr s u c rs rfl (State.setRing_taken_bound _ r q.tag)]
    rfl
  have only : ∀ {t c}, t = u.handOver c → answered t s.lane none [c] := fun h =>
    row h (u.laneAnswered_only q.slot _)
  refine ⟨fun hkind => ?_, fun hkind => ?_⟩
  · refine ⟨u.claimLane r q head,
      hexec.trans (congrArg Host.Outcome.next (State.dispatch_claimLane _ r q hkind)), ?_⟩
    split
    · next hstale => exact only (if_pos hstale)
    next hstale =>
    have hrow : u.claimLane r q head = _ := if_neg hstale
    split
    · next hunready => exact only (hrow.trans (if_pos hunready))
    next hready =>
    replace hrow := hrow.trans (if_neg hready)
    split
    · next hunavailable => exact only (hrow.trans (if_pos hunavailable))
    next havailable =>
    replace hrow := hrow.trans (if_neg havailable)
    split
    · next hholds => exact only (hrow.trans (if_pos hholds))
    next hholds =>
    replace hrow := hrow.trans (if_neg hholds)
    split
    · next hwaits => exact only (hrow.trans (if_pos ((u.waiterOf_isSome q.slot).mpr hwaits)))
    next hwaits =>
    replace hrow := hrow.trans (if_neg (hwaits ∘ (u.waiterOf_isSome q.slot).mp))
    split
    · next hfree =>
      exact row (hrow.trans (if_pos hfree)) (State.laneAnswered_handOver (u.grantLane_laneAnswered q.slot r) _)
    next hfree =>
    replace hrow := hrow.trans (if_neg hfree)
    split
    · next hnowait => exact only (hrow.trans (if_pos hnowait))
    · next hmaywait => exact row (hrow.trans (if_neg hmaywait)) (u.laneAnswered_setRole q.slot _ .waiter)
  · refine ⟨u.releaseLane r q head,
      hexec.trans (congrArg Host.Outcome.next (State.dispatch_releaseLane _ r q hkind)), ?_⟩
    split
    · next hheld => exact row (if_pos hheld) (State.laneAnswered_handOver (u.endHold_laneAnswered q.slot) _)
    · next hheld => exact only (if_neg hheld)

end
